-- ==== Sys2Proof/Word.lean ====
section
/-!
DEFINITION. The words of the PL264: bytes of records and frames, and 16-bit values.
-/

namespace Sys2Proof

/-- A byte of a host record, of a field frame or of a register reported as one byte. -/
abbrev Byte := BitVec 8

/-- A 16-bit value: a CRC (R4), the error total (R23), a pool mark (R73), the mask word (R178). -/
abbrev Half := BitVec 16

/-- The drop slots, slot 0 to slot 63 (02_the_drop_table.md, section 2.1). -/
abbrev Slot := Fin 64

end Sys2Proof
end

