-- ==== Sys2Proof/Syntax.lean ====
section
/-!
DEFINITION. The commands of the PL264: one constructor per row of spec/opcode_table.json.

A host request carries its tag and the bytes of its body (R164, R179); it stands for the whole record
of its kind arriving on HRXD. An event of a field line names its line. The operands of the events
that the host link's receive framer meets are the bytes it takes first (log 1).
-/

namespace Sys2Proof

/-- The two field lines. -/
inductive Line where
  | a
  | b
  deriving DecidableEq, Repr

/-- The other line of the pair. -/
def Line.other : Line → Line
  | .a => .b
  | .b => .a

/-- A character on a field line, as its eleven bits arrive or are sent: eight data bits, the parity bit and the
level of the stop bit (R1). -/
structure FieldChar where
  data : Byte
  parity : Bool
  stop : Bool
  deriving DecidableEq, Repr

/-- The levels of the strap pins RATE1 and RATE0 (R156, Table 6). -/
structure Straps where
  rate1 : Bool
  rate0 : Bool
  deriving DecidableEq, Repr

/-- The commands, in the table's order. -/
inductive Instr where
  | deviceInfo (tag : Byte) (body : List Byte)
  | deviceRestart (tag : Byte) (body : List Byte)
  | cancel (tag : Byte) (body : List Byte)
  | dropCreate (tag : Byte) (body : List Byte)
  | dropModify (tag : Byte) (body : List Byte)
  | dropQuery (tag : Byte) (body : List Byte)
  | dropScan (tag : Byte) (body : List Byte)
  | dropMove (tag : Byte) (body : List Byte)
  | dropRetire (tag : Byte) (body : List Byte)
  | msgSubmit (tag : Byte) (body : List Byte)
  | msgFetch (tag : Byte) (body : List Byte)
  | msgRelease (tag : Byte) (body : List Byte)
  | msgPurge (tag : Byte) (body : List Byte)
  | msgBroadcast (tag : Byte) (body : List Byte)
  | poolStatus (tag : Byte) (body : List Byte)
  | poolMarks (tag : Byte) (body : List Byte)
  | lineConfig (tag : Byte) (body : List Byte)
  | lineStart (tag : Byte) (body : List Byte)
  | lineStop (tag : Byte) (body : List Byte)
  | lineReset (tag : Byte) (body : List Byte)
  | lineStatus (tag : Byte) (body : List Byte)
  | pollNow (tag : Byte) (body : List Byte)
  | attnMask (tag : Byte) (body : List Byte)
  | attnPeek (tag : Byte) (body : List Byte)
  /-- The bytes of a host record as they arrive on HRXD, the last one the byte at which the record is rejected. -/
  | rejection (raw : List Byte)
  /-- The bytes of a record taken so far, then 2 ms without a start bit. -/
  | interByteGapExpiry (taken : List Byte)
  /-- The bytes of a record taken so far, then a byte with a stop-bit error. -/
  | hostStopBitError (taken : List Byte)
  /-- The bytes of a record taken so far, then HRXD held low for 10 ms. -/
  | hostLinkBreak (taken : List Byte)
  | hrdyAsserted
  | hrdyDeasserted
  | recordTransmissionEnd
  | resetnAsserted
  /-- The end of a reset, with the levels of the rate straps at that moment. -/
  | deviceReset (straps : Straps)
  /-- Power applied, with the levels of the rate straps when the hold in reset ends. -/
  | powerOn (straps : Straps)
  | visitStart (line : Line)
  | turnaroundGapElapsed (line : Line)
  | gapWaitLimitExpiry (line : Line)
  | frameSent (line : Line)
  | replyTimeout (line : Line)
  | intraFrameGapExpiry (line : Line)
  | fieldCharacterReceived (line : Line) (ch : FieldChar)
  /-- The characters of a reply not yet taken, the last one its second CRC byte. -/
  | replyFrameReceived (line : Line) (chars : List FieldChar)
  | broadcastWindow (line : Line)
  | bcastFrameEnd (line : Line)
  | roundPeriodElapsed (line : Line)
  | fieldReceiveInputReturnsHigh (line : Line)
  | hrxdReturnsHigh
  deriving DecidableEq, Repr

end Sys2Proof
end

