-- ==== Sys2Proof/Decode.lean ====
section
/-!
DEFINITION. The opcode table gives no bits for any of its rows: the commands of this block are not words. So no word
spells a command.
-/

namespace Sys2Proof

/-- The command that a word spells by the table's bits. No row of the table has bits, so there is none. -/
def decodeTableWord (_nbits _w : Nat) : Option Instr := none

end Sys2Proof
end

