-- ==== Sys2Proof/Config.lean ====
section
/-!
DEFINITION. What the part fixes: its identification, its capacities and its default figures
(00_scope.md, Table 4 and section 7), and the one value that nothing in the part or among its commands gives: the levels of the
rate straps when the reset of a DEVICE_RESTART ends (log 12).
-/

namespace Sys2Proof.Config

/-- Family code of DEVICE_INFO (R165). -/
def familyCode : Byte := 0x52#8
/-- Part code of DEVICE_INFO (R165). -/
def partCode : Byte := 0x64#8
/-- Revision byte of DEVICE_INFO and of the RESTARTED notice (R165, Table 65). -/
def revision : Byte := 0x01#8
/-- Drop slots (Table 4). -/
def dropSlots : Nat := 64
/-- Field lines (Table 4). -/
def fieldLines : Nat := 2
/-- Cells of the cell store (R62). -/
def cells : Nat := 512
/-- Message records (R64). -/
def records : Nat := 256
/-- Bytes of one cell, and of one segment (R62, R63). -/
def cellBytes : Nat := 32
/-- Cells of the longest chain (R63). -/
def chainCells : Nat := 7
/-- Longest outbound message (R96). -/
def messageBytes : Nat := 224
/-- Outstanding requests (R160). -/
def outstandingMax : Nat := 4
/-- Drops in one urgent queue (R106). -/
def urgentMax : Nat := 8
/-- Broadcasts in one broadcast queue (R100). -/
def broadcastMax : Nat := 4
/-- The loss threshold, failed visits in a row (R24). -/
def lossThreshold : Nat := 3
/-- Default pool marks: hold, resume, low (R73). -/
def holdMark : Half := 24#16
/-- See `holdMark`. -/
def resumeMark : Half := 56#16
/-- See `holdMark`. -/
def lowMark : Half := 80#16
/-- The byte that opens a host record (section 9.2). -/
def startByte : Byte := 0xA5#8
/-- LEN is at least 2 and at most 250 (section 9.2). -/
def lenMin : Nat := 2
/-- See `lenMin`. -/
def lenMax : Nat := 250

/-- Free value (log 12): the levels on the strap pins, RATE1 in bit 1 and RATE0 in bit 0, at the reset of the n-th DEVICE_RESTART
(R156, R167). The board drives the pins and no command carries them there, so nothing constrains them. -/
opaque strapLevels : Nat → BitVec 2

end Sys2Proof.Config
end

