-- ==== Sys2Proof/Machine/State.lean ====
section
/-!
DEFINITION. The state of the PL264 as plain data, one structure per block of Table 1, the reasons a step
can stop, and the machine right after reset.
-/

namespace Sys2Proof.Machine

/-- Reasons a step stops with a fault. The spec names none: every condition it describes is answered
by a reply, a notice, a count or a line state, and the part goes on. So no constructor is declared,
and a proof that no command faults rests on this type being empty (log 16, safe). -/
inductive Fault where
  deriving DecidableEq, Repr

/-- Reasons a command has no meaning in the model. -/
inductive Refusal where
  /-- Raised by an arm of `exec` whose command has no meaning yet, never by a meaning; no arm raises it
  now. Safe: the model stops where the part goes on. -/
  | notModelled (mnemonic : String)
  deriving DecidableEq, Repr

/-! ## Drop Table -/

/-- Lifecycle state of a drop entry (Table 17). -/
inductive DropState where
  | vacant
  | joining
  | online
  | suspect
  | lost
  | retiring
  deriving DecidableEq, Repr

/-- The link record of a drop (Table 45). The toggles are `false` for 0 and `true` for 1. -/
structure LinkRecord where
  resyncNeeded : Bool
  seqOut : Bool
  expectedIn : Bool
  inFlight : Bool
  segIndex : Nat
  deriving DecidableEq, Repr

/-- A cleared link record (R119). -/
def LinkRecord.cleared : LinkRecord :=
  { resyncNeeded := false, seqOut := false, expectedIn := false, inFlight := false, segIndex := 0 }

/-- The link record of a drop that must answer a RESYNC first (R37, R49, R146, R153). -/
def LinkRecord.fresh : LinkRecord := { LinkRecord.cleared with resyncNeeded := true }

/-- A move accepted while its drop was in flight (R51). -/
structure PendingMove where
  line : Line
  address : Byte
  setHome : Bool
  tag : Byte
  deriving DecidableEq, Repr

/-- A cell in a chain: its number in the cell store and the bytes written into it (R63). -/
structure Cell where
  no : Nat
  data : List Byte
  deriving DecidableEq, Repr

/-- An OUT message record (Table 30). Its owner is the slot whose outbox holds it; its length is that
of its chain's bytes. -/
structure OutMsg where
  recNo : Nat
  id : Byte
  chain : List Cell
  urgent : Bool
  deriving DecidableEq, Repr

/-- Status of an IN message (Table 30). -/
inductive InStatus where
  | intact
  | overlong
  | incomplete
  deriving DecidableEq, Repr

/-- An IN message record (Table 30). The id is absent while the message is partial. -/
structure InMsg where
  recNo : Nat
  id : Option Byte
  chain : List Cell
  status : InStatus
  alertMark : Bool
  fetched : Bool
  segCount : Byte
  deriving DecidableEq, Repr

/-- One entry of the drop table (Table 15), with the drop's outbox, inbox and partial slot. -/
structure Drop where
  state : DropState
  generation : Byte
  address : Byte
  homeLine : Line
  currentLine : Line
  alternate : Option Line
  cls : Byte
  groups : Byte
  retryLimit : Byte
  replyTimeout : Byte
  inboxLimit : Byte
  inboxTrigger : Byte
  outboxLimit : Byte
  outboxTrigger : Byte
  maxInbound : Byte
  notify : Bool
  alertByte : Option Byte
  missCount : Byte
  errorTotal : Half
  nextOutId : Byte
  nextInId : Byte
  pendingMove : Option PendingMove
  link : LinkRecord
  outbox : List OutMsg
  headLock : Bool
  settleWait : Bool
  inbox : List InMsg
  partialMsg : Option InMsg
  deriving DecidableEq, Repr

/-- A VACANT entry with its last generation: every other field as R19 and R42 give it (log 7 for the
fields that hold no value). -/
def Drop.vacant (generation : Byte) : Drop :=
  { state := .vacant, generation := generation, address := 0, homeLine := .a, currentLine := .a,
    alternate := none, cls := 0, groups := 0, retryLimit := 0, replyTimeout := 0, inboxLimit := 0,
    inboxTrigger := 0, outboxLimit := 0, outboxTrigger := 0, maxInbound := 0, notify := false,
    alertByte := none, missCount := 0, errorTotal := 0, nextOutId := 0, nextInId := 0,
    pendingMove := none, link := .cleared, outbox := [], headLock := false, settleWait := false,
    inbox := [], partialMsg := none }

/-- The retire operation (R54). The cancelled flag is set exactly while the CANCEL's tag is present. -/
structure RetireOp where
  tag : Byte
  first : Nat
  count : Nat
  next : Nat
  completed : Nat
  cancelTag : Option Byte
  deriving DecidableEq, Repr

/-! ## Message Store -/

/-- The target of a broadcast (Table 30, Table 68): a group by its number 1 to 4, or all drops. -/
inductive Target where
  | group1
  | group2
  | group3
  | group4
  | all
  deriving DecidableEq, Repr

/-- A BCAST message record (Table 30): `onA` and `onB` are its line set. -/
structure Bcast where
  recNo : Nat
  cell : Cell
  target : Target
  onA : Bool
  onB : Bool
  deriving DecidableEq, Repr

/-- The shared part of the Message Store: free lists, broadcasts in order of acceptance, pool marks and
hold state (R62, R64, R73, R74, R100). -/
structure Store where
  freeCells : List Nat
  freeRecords : List Nat
  bcasts : List Bcast
  holdMark : Half
  resumeMark : Half
  lowMark : Half
  hold : Bool
  deriving DecidableEq, Repr

/-- The store after a device reset (R66, R73). -/
def Store.reset : Store :=
  { freeCells := List.range Config.cells, freeRecords := List.range Config.records, bcasts := [],
    holdMark := Config.holdMark, resumeMark := Config.resumeMark, lowMark := Config.lowMark, hold := false }

/-! ## Line Controllers -/

/-- The state of a line (R139). -/
inductive LineState where
  | disabled
  | running
  | stopping
  | stopped
  | fault
  deriving DecidableEq, Repr

/-- The configuration of a line (Table 54). -/
structure LineCfg where
  rateCode : Byte
  gap : Byte
  roundPeriod : Byte
  probeInterval : Byte
  faultThreshold : Byte
  deriving DecidableEq, Repr

/-- The default configuration (Table 54). -/
def LineCfg.default : LineCfg :=
  { rateCode := 1, gap := 4, roundPeriod := 0, probeInterval := 16, faultThreshold := 8 }

/-- An entry of the poll ring with its due mark (R103, R108). -/
structure RingEntry where
  slot : Slot
  due : Bool
  deriving DecidableEq, Repr

/-- The phase of a round (Table 41). -/
inductive RoundPhase where
  | ringWalk
  | broadcast
  | probe
  | idle
  deriving DecidableEq, Repr

/-- The deferred flag of the round position (R107). -/
inductive Deferred where
  | clear
  | ring
  | probe
  deriving DecidableEq, Repr

/-- The origin of a visit (Table 47). -/
inductive Origin where
  | ring
  | probe
  | urgent
  deriving DecidableEq, Repr

/-- The kinds of frame a visit sends (Table 10, Table 47). -/
inductive MasterKind where
  | poll
  | deliver
  | resync
  deriving DecidableEq, Repr

/-- The phase of a visit (Table 48). -/
inductive VisitPhase where
  | gap
  | send
  | reply
  deriving DecidableEq, Repr

/-- The delivered segment of a visit record: the message id and the segment index (Table 47). -/
structure Delivered where
  id : Byte
  seg : Nat
  deriving DecidableEq, Repr

/-- The visit record (Table 47). Its frame is the run of characters that every attempt sends (R1, R6). -/
structure Visit where
  slot : Slot
  origin : Origin
  stateAtStart : DropState
  frame : List FieldChar
  kind : MasterKind
  address : Byte
  delivered : Option Delivered
  attemptLimit : Nat
  replyTimeout : Byte
  attempts : Nat
  phase : VisitPhase
  deriving DecidableEq, Repr

/-- A BCAST frame taken for the broadcast window and not yet ended, as the characters it is sent in (R1, R110): in
its turnaround gap, or being sent. -/
structure BcastFrame where
  chars : List FieldChar
  sending : Bool
  deriving DecidableEq, Repr

/-- The line receiver (R16), with the bytes of the reply received so far. -/
inductive Receiver where
  | notWaiting
  | awaitingReply
  | receiving (bytes : List Byte)
  deriving DecidableEq, Repr

/-- One Line Controller. The cursor is a position in the ring; the ring's length is "the end" (R104).
`stopTag` is the tag of the outstanding LINE_STOP (R143). `rxLow` and `gapHeld` are the receive input
that stays low and the measurement it holds (R1, R15). `roundStart` is the moment the round began, and `roundElapsed` the time
known to have passed since, in units of 10 ms (R107, R112, log 3). -/
structure LineCtl where
  state : LineState
  cfg : LineCfg
  ring : List RingEntry
  cursor : Nat
  probeList : List Slot
  urgent : List Slot
  roundNumber : Byte
  phase : RoundPhase
  roundStart : Nat
  roundElapsed : Nat
  probeCountdown : Byte
  probeStep : Bool
  deferred : Deferred
  idleServed : Bool
  failCount : Nat
  visit : Option Visit
  bcastFrame : Option BcastFrame
  receiver : Receiver
  rxLow : Bool
  gapHeld : Bool
  stopTag : Option Byte
  deriving DecidableEq, Repr

/-- A Line Controller after a device reset (R139, R107). -/
def LineCtl.reset : LineCtl :=
  { state := .disabled, cfg := .default, ring := [], cursor := 0, probeList := [], urgent := [],
    roundNumber := 0, phase := .ringWalk, roundStart := 0, roundElapsed := 0, probeCountdown := LineCfg.default.probeInterval,
    probeStep := false, deferred := .clear, idleServed := false, failCount := 0, visit := none,
    bcastFrame := none, receiver := .notWaiting, rxLow := false, gapHeld := false, stopTag := none }

/-! ## Host Link Interface -/

/-- The receive framer (Table 59), each state with what it holds of the record in progress. -/
inductive Framer where
  | hunt
  | len
  | badLen (len : Byte)
  | tag (len : Byte)
  | kind (len tag : Byte)
  | body (len tag kind : Byte) (got : List Byte) (expected : Nat)
  | crcHigh (len tag kind : Byte) (got : List Byte)
  | crcLow (len tag kind : Byte) (got : List Byte) (high : Byte)
  deriving DecidableEq, Repr

/-- Phase of an outstanding request (section 9.4). -/
inductive ReqPhase where
  | working
  | ready
  | sending
  deriving DecidableEq, Repr

/-- An entry of the outstanding-request table (section 9.4). -/
structure Outstanding where
  tag : Byte
  kind : Byte
  phase : ReqPhase
  deriving DecidableEq, Repr

/-- What a record the part sends is: the reply of an admitted request, the OK of a DEVICE_RESTART, an
immediate reply, or a notice (R161 to R163, R166). -/
inductive RecordOrigin where
  | request
  | restart
  | immediate
  | notice
  deriving DecidableEq, Repr

/-- A record the part sends: tag, kind and body (Table 67). -/
structure OutRecord where
  tag : Byte
  kind : Byte
  body : List Byte
  origin : RecordOrigin
  deriving DecidableEq, Repr

/-- The Host Link Interface with its pins. `tx` is the record in transmission on HTXD; `straps` are the levels last sampled at
RATE1 and RATE0; `strapReads` is the model's own: how many free values of the straps have been read (log 12). -/
structure Hli where
  framer : Framer
  hrxdLow : Bool
  outstanding : List Outstanding
  ready : List OutRecord
  immediateUsed : Bool
  tx : Option OutRecord
  restartPending : Bool
  hostRate : Straps
  straps : Straps
  strapReads : Nat
  hrdy : Bool
  inReset : Bool
  deriving DecidableEq, Repr

/-- The Host Link Interface after a device reset (R167), with the pins low (log 6). -/
def Hli.reset : Hli :=
  { framer := .hunt, hrxdLow := false, outstanding := [], ready := [], immediateUsed := false, tx := none,
    restartPending := false, hostRate := { rate1 := false, rate0 := false },
    straps := { rate1 := false, rate0 := false }, strapReads := 0, hrdy := false, inReset := false }

/-! ## Attention Unit -/

/-- The per-drop instances of one slot (R168, R169). -/
structure SlotAttn where
  dropState : Bool
  inboxAlert : Bool
  outboxLow : Bool
  inboxReadyReported : Bool
  deriving DecidableEq, Repr

/-- The cleared per-drop instances of a slot (R175). -/
def SlotAttn.clear : SlotAttn :=
  { dropState := false, inboxAlert := false, outboxLow := false, inboxReadyReported := false }

/-- The per-line instances of one line (R168, R169). -/
structure LineAttn where
  faultReported : Bool
  failover : Bool
  moved : Byte
  stranded : Byte
  bcastDropped : Bool
  dropped : Byte
  deriving DecidableEq, Repr

/-- The cleared per-line instances of a line (R175). -/
def LineAttn.clear : LineAttn :=
  { faultReported := false, failover := false, moved := 0, stranded := 0, bcastDropped := false, dropped := 0 }

/-- The Attention Unit. `masks` is the mask word of R178: a bit of 1 is open. -/
structure Attn where
  restarted : Bool
  lineA : LineAttn
  lineB : LineAttn
  holdReported : Bool
  lowReported : Bool
  replyLost : Bool
  replyLostCount : Byte
  slots : Vector SlotAttn 64
  masks : Half
  ptrDropState : Slot
  ptrInboxAlert : Slot
  ptrInboxReady : Slot
  ptrOutboxLow : Slot
  deriving DecidableEq, Repr

/-- The Attention Unit after a device reset (R175). -/
def Attn.reset : Attn :=
  { restarted := true, lineA := .clear, lineB := .clear, holdReported := false, lowReported := false,
    replyLost := false, replyLostCount := 0, slots := Vector.replicate 64 .clear, masks := 0x07FF#16,
    ptrDropState := 63, ptrInboxAlert := 63, ptrInboxReady := 63, ptrOutboxLow := 63 }

/-! ## The whole part -/

/-- The state of the PL264. `pending` is the queue of commands waiting; `timebase` counts the
moments at which rounds have begun (log 3). -/
structure State where
  pending : List Instr
  timebase : Nat
  hli : Hli
  drops : Vector Drop 64
  retire : Option RetireOp
  store : Store
  lcA : LineCtl
  lcB : LineCtl
  au : Attn
  deriving DecidableEq, Repr

/-- The machine right after a device reset (R19, R66, R139, R167, R175). -/
def State.reset : State :=
  { pending := [], timebase := 0, hli := .reset, drops := Vector.replicate 64 (.vacant 0), retire := none,
    store := .reset, lcA := .reset, lcB := .reset, au := .reset }

end Sys2Proof.Machine
end

