-- ==== Sys2Proof/Machine/Operands.lean ====
section
/-!
DEFINITION. Byte layouts: the CRC, the encodings of items on the host link, record framing and the receive
framer, field frames and the judgement of a reply (chapters 1, 9 and 11 of the spec). Pure functions.
-/

namespace Sys2Proof.Machine

/-! ## Bytes and the CRC -/

/-- The high byte of a two-byte item (R178). -/
def hiByte (w : Half) : Byte := w.extractLsb' 8 8

/-- The low byte of a two-byte item (R178). -/
def loByte (w : Half) : Byte := w.extractLsb' 0 8

/-- A two-byte item from its bytes, high byte first (R178). -/
def halfOf (hi lo : Byte) : Half := hi.append lo

/-- A count as a byte of a record. -/
def byteOf (n : Nat) : Byte := BitVec.ofNat 8 n

/-- A two-byte count, high byte first (R178). -/
def halfBytes (n : Nat) : List Byte := [hiByte (BitVec.ofNat 16 n), loByte (BitVec.ofNat 16 n)]

/-- A set/clear or yes/no item (R178). -/
def flagByte (b : Bool) : Byte := if b then 1#8 else 0#8

/-- One bit of the CRC: generator x^16 + x^12 + x^5 + 1 (R4). -/
def crcShift (c : Half) : Half := if c.msb then (c <<< 1) ^^^ 0x1021#16 else c <<< 1

/-- One byte into the CRC, most significant bit first (R4). -/
def crcByte (c : Half) (b : Byte) : Half :=
  let c := c ^^^ (b.append 0#8)
  crcShift (crcShift (crcShift (crcShift (crcShift (crcShift (crcShift (crcShift c)))))))

/-- The CRC of a run of bytes, starting at FFFFh (R4). -/
def crc16 (bs : List Byte) : Half := bs.foldl crcByte 0xFFFF#16

/-! ## Codes of R178 -/

/-- The code of a line (R178). -/
def lineByte : Line → Byte
  | .a => 0x00#8
  | .b => 0x01#8

/-- The line a byte names, if it names one (R178). -/
def lineOf (b : Byte) : Option Line :=
  if b = 0x00#8 then some .a else if b = 0x01#8 then some .b else none

/-- The code of an optional line (R178). -/
def optLineByte : Option Line → Byte
  | none => 0xFF#8
  | some l => lineByte l

/-- The slot a byte names, if it names one (R178). -/
def slotOf (b : Byte) : Option Slot := if h : b.toNat < 64 then some ⟨b.toNat, h⟩ else none

/-- The slot with a number, if there is one. -/
def slotOfNat (n : Nat) : Option Slot := if h : n < 64 then some ⟨n, h⟩ else none

/-- The code of a slot (R178). -/
def slotByte (s : Slot) : Byte := byteOf s.val

/-- The value of a set/clear or yes/no byte, if it has one (R178). -/
def flagOf (b : Byte) : Option Bool :=
  if b = 0x00#8 then some false else if b = 0x01#8 then some true else none

/-- The code of a drop state (R178). -/
def DropState.code : DropState → Byte
  | .vacant => 0x00#8
  | .joining => 0x01#8
  | .online => 0x02#8
  | .suspect => 0x03#8
  | .lost => 0x04#8
  | .retiring => 0x05#8

/-- The code of a line state (R178). -/
def LineState.code : LineState → Byte
  | .disabled => 0x00#8
  | .running => 0x01#8
  | .stopping => 0x02#8
  | .stopped => 0x03#8
  | .fault => 0x04#8

/-- The code of an inbound message status (R178). -/
def InStatus.code : InStatus → Byte
  | .intact => 0x00#8
  | .overlong => 0x01#8
  | .incomplete => 0x02#8

/-- The two bytes of the alert byte: presence and value (R178). -/
def alertBytes : Option Byte → List Byte
  | none => [0x00#8, 0x00#8]
  | some v => [0x01#8, v]

/-- The alert byte from its presence and value bytes; `none` for a presence byte that R178 does not
define. The value byte of an absent alert byte is not examined (log 17). -/
def alertOf (presence value : Byte) : Option (Option Byte) :=
  if presence = 0x00#8 then some none else if presence = 0x01#8 then some (some value) else none

/-- The alternate line from its byte: FFh absent, else a line (R178). -/
def altOf (b : Byte) : Option (Option Line) :=
  if b = 0xFF#8 then some none else (lineOf b).map some

/-- The reply codes of Table 61. -/
inductive ReplyCode where
  | ok
  | same
  | partialDone
  | tableFull
  | tagInUse
  | badKind
  | badLength
  | badValue
  | check
  | noSlot
  | notPresent
  | stale
  | wrongState
  | addressTaken
  | lineUnavailable
  | queueFull
  | poolHeld
  | poolExhausted
  | inboxEmpty
  | notFetched
  | aborted
  | notFound
  deriving DecidableEq, Repr

/-- The byte of a reply code (Table 61). -/
def ReplyCode.byte : ReplyCode → Byte
  | .ok => 0x00#8
  | .same => 0x01#8
  | .partialDone => 0x02#8
  | .tableFull => 0x10#8
  | .tagInUse => 0x11#8
  | .badKind => 0x12#8
  | .badLength => 0x13#8
  | .badValue => 0x14#8
  | .check => 0x15#8
  | .noSlot => 0x20#8
  | .notPresent => 0x21#8
  | .stale => 0x22#8
  | .wrongState => 0x23#8
  | .addressTaken => 0x24#8
  | .lineUnavailable => 0x25#8
  | .queueFull => 0x30#8
  | .poolHeld => 0x31#8
  | .poolExhausted => 0x32#8
  | .inboxEmpty => 0x33#8
  | .notFetched => 0x34#8
  | .aborted => 0x40#8
  | .notFound => 0x41#8

/-! ## Request kinds (Table 60) -/

/-- The request kinds, one per host request. -/
inductive ReqKind where
  | deviceInfo
  | deviceRestart
  | cancel
  | dropCreate
  | dropModify
  | dropQuery
  | dropScan
  | dropMove
  | dropRetire
  | msgSubmit
  | msgFetch
  | msgRelease
  | msgPurge
  | msgBroadcast
  | poolStatus
  | poolMarks
  | lineConfig
  | lineStart
  | lineStop
  | lineReset
  | lineStatus
  | pollNow
  | attnMask
  | attnPeek
  deriving DecidableEq, Repr

/-- The kind byte of a request (Table 60). -/
def ReqKind.byte : ReqKind → Byte
  | .deviceInfo => 0x01#8
  | .deviceRestart => 0x02#8
  | .cancel => 0x03#8
  | .dropCreate => 0x10#8
  | .dropModify => 0x11#8
  | .dropQuery => 0x12#8
  | .dropScan => 0x13#8
  | .dropMove => 0x14#8
  | .dropRetire => 0x15#8
  | .msgSubmit => 0x20#8
  | .msgFetch => 0x21#8
  | .msgRelease => 0x22#8
  | .msgPurge => 0x23#8
  | .msgBroadcast => 0x24#8
  | .poolStatus => 0x25#8
  | .poolMarks => 0x26#8
  | .lineConfig => 0x30#8
  | .lineStart => 0x31#8
  | .lineStop => 0x32#8
  | .lineReset => 0x33#8
  | .lineStatus => 0x34#8
  | .pollNow => 0x35#8
  | .attnMask => 0x40#8
  | .attnPeek => 0x41#8

/-- The request kinds in the order of Table 60. -/
def ReqKind.list : List ReqKind :=
  [.deviceInfo, .deviceRestart, .cancel, .dropCreate, .dropModify, .dropQuery, .dropScan, .dropMove,
   .dropRetire, .msgSubmit, .msgFetch, .msgRelease, .msgPurge, .msgBroadcast, .poolStatus, .poolMarks,
   .lineConfig, .lineStart, .lineStop, .lineReset, .lineStatus, .pollNow, .attnMask, .attnPeek]

/-- The request a kind byte names, if it is a request kind (R159). -/
def ReqKind.ofByte (b : Byte) : Option ReqKind := ReqKind.list.find? (fun k => k.byte = b)

/-- The kind of a reply: the request's kind plus 80h (R164). -/
def replyKind (kind : Byte) : Byte := kind + 0x80#8

/-! ## Host records and the receive framer (R157) -/

/-- The bytes of a whole host record with the given tag, kind and body (section 9.2). -/
def recordBytes (tag kind : Byte) (body : List Byte) : List Byte :=
  let counted := byteOf (body.length + 2) :: tag :: kind :: body
  Config.startByte :: (counted ++ [hiByte (crc16 counted), loByte (crc16 counted)])

/-- The bytes of a record the part sends (section 9.2). -/
def OutRecord.bytes (r : OutRecord) : List Byte := recordBytes r.tag r.kind r.body

/-- The levels of a character of the host link in the order they are sent: a low start bit, eight data bits, least
significant bit first, and a high stop bit (R156). -/
def hostCharLevels (b : Byte) : List Bool := false :: ((List.range 8).map b.getLsbD ++ [true])

/-- What HTXD sends, one level for each bit time: the characters of the record in transmission, back to back. It is empty
while HTXD is held high: between records, and while RESETN is held low (R156, R163, R167). -/
def State.htxd (s : State) : List Bool :=
  if s.hli.inReset then []
  else match s.hli.tx with
  | none => []
  | some r => r.bytes.flatMap hostCharLevels

/-- The bit rate of the host link by its straps, in bit/s (Table 6, R156). -/
def Straps.bitRate (p : Straps) : Nat :=
  match p.rate1, p.rate0 with
  | false, false => 115200
  | false, true => 460800
  | true, false => 921600
  | true, true => 1843200

/-- What the framer hands on: a record whose LEN is out of range, or a whole record with the verdict on
its CRC (R157, R159). -/
inductive Handed where
  | badLen (tag : Byte)
  | whole (tag kind : Byte) (body : List Byte) (crcGood : Bool)
  deriving DecidableEq, Repr

/-- The framer takes one byte (Table 59). -/
def Framer.take (f : Framer) (b : Byte) : Framer × Option Handed :=
  match f with
  | .hunt => if b = Config.startByte then (.len, none) else (.hunt, none)
  | .len =>
    if Config.lenMin ≤ b.toNat ∧ b.toNat ≤ Config.lenMax then (.tag b, none) else (.badLen b, none)
  | .badLen _ => (.hunt, some (.badLen b))
  | .tag n => (.kind n b, none)
  | .kind n t =>
    if n.toNat = 2 then (.crcHigh n t b [], none) else (.body n t b [] (n.toNat - 2), none)
  | .body n t k got expected =>
    if expected ≤ 1 then (.crcHigh n t k (got ++ [b]), none)
    else (.body n t k (got ++ [b]) (expected - 1), none)
  | .crcHigh n t k got => (.crcLow n t k got b, none)
  | .crcLow n t k got high =>
    (.hunt, some (.whole t k got (crc16 (n :: t :: k :: got) = halfOf high b)))

/-! ## Field frames (R3, R5, R180) -/

/-- The kind nibble of a master frame (Table 10). -/
def MasterKind.nibble : MasterKind → Nat
  | .poll => 1
  | .deliver => 2
  | .resync => 3

/-- The kind nibble of a BCAST (Table 10). -/
def bcastNibble : Nat := 4

/-- The CTRL byte (Table 72): kind, SEQ, NEXT, HOLD or MORE, and a 0 bit. -/
def ctrlByte (nibble : Nat) (seq next third : Bool) : Byte :=
  byteOf (16 * nibble + 8 * seq.toNat + 4 * next.toNat + 2 * third.toNat)

/-- The SEGF byte (Table 72): FIRST, LAST and the length. -/
def segfByte (first last : Bool) (len : Nat) : Byte :=
  byteOf (128 * first.toNat + 64 * last.toNat + len % 64)

/-- A whole field frame with its CRC (R3, R4, R180). -/
def frameBytes (addr ctrl segf : Byte) (payload : List Byte) : List Byte :=
  let body := addr :: ctrl :: segf :: payload
  body ++ [hiByte (crc16 body), loByte (crc16 body)]

/-- The ADDR byte of a broadcast (R102). -/
def Target.addr : Target → Byte
  | .group1 => 0xF1#8
  | .group2 => 0xF2#8
  | .group3 => 0xF3#8
  | .group4 => 0xF4#8
  | .all => 0xFF#8

/-- The target byte of MSG_BROADCAST (Table 68). -/
def targetOf (b : Byte) : Option Target :=
  if b = 0x01#8 then some .group1 else if b = 0x02#8 then some .group2
  else if b = 0x03#8 then some .group3 else if b = 0x04#8 then some .group4
  else if b = 0xFF#8 then some .all else none

/-- The kinds of frame a drop sends (Table 11). -/
inductive DropKind where
  | data
  | empty
  | busy
  | resyncAck
  | resyncReq
  deriving DecidableEq, Repr

/-- The drop kind of a CTRL byte's upper four bits, if it is one (Table 11, R180). -/
def dropKindOf (ctrl : Byte) : Option DropKind :=
  match ctrl.toNat / 16 with
  | 0x8 => some .data
  | 0x9 => some .empty
  | 0xA => some .busy
  | 0xB => some .resyncAck
  | 0xC => some .resyncReq
  | _ => none

/-- The reply kinds Table 12 allows for a master frame (R8). -/
def MasterKind.allows : MasterKind → DropKind → Bool
  | .poll, .data => true
  | .poll, .empty => true
  | .poll, .resyncReq => true
  | .deliver, .data => true
  | .deliver, .empty => true
  | .deliver, .busy => true
  | .deliver, .resyncReq => true
  | .resync, .resyncAck => true
  | _, _ => false

/-- A valid reply with its kind and fields (R7). -/
structure DropFrame where
  kind : DropKind
  seq : Bool
  next : Bool
  more : Bool
  first : Bool
  last : Bool
  payload : List Byte
  deriving DecidableEq, Repr

/-- SEQ of a CTRL byte (Table 72). -/
def ctrlSeq (c : Byte) : Bool := c.getLsbD 3
/-- NEXT of a CTRL byte (Table 72). -/
def ctrlNext (c : Byte) : Bool := c.getLsbD 2
/-- HOLD or MORE of a CTRL byte (Table 72). -/
def ctrlThird (c : Byte) : Bool := c.getLsbD 1
/-- FIRST of a SEGF byte (Table 72). -/
def segfFirst (g : Byte) : Bool := g.getLsbD 7
/-- LAST of a SEGF byte (Table 72). -/
def segfLast (g : Byte) : Bool := g.getLsbD 6
/-- The length field of a SEGF byte (Table 72). -/
def segfLen (g : Byte) : Nat := g.toNat % 64

/-- The three length and flag tests of R17 on the third byte. -/
def segfGood (k : DropKind) (g : Byte) : Bool :=
  match k with
  | .data => 1 ≤ segfLen g && segfLen g ≤ 32
  | _ => !segfFirst g && !segfLast g && segfLen g = 0

/-- The line receiver's view of the bytes of a reply so far: no verdict yet, an attempt failure, or a
valid reply (R17). -/
inductive Verdict where
  | incomplete
  | failure
  | valid (f : DropFrame)
  deriving DecidableEq, Repr

/-- The tests of R17 on the bytes received so far, given the kind and address of the frame sent. -/
def judgeReply (sent : MasterKind) (addr : Byte) (bytes : List Byte) : Verdict :=
  match bytes with
  | [] => .incomplete
  | a :: more =>
    if a ≠ addr then .failure
    else match more with
    | [] => .incomplete
    | c :: more =>
      match dropKindOf c with
      | none => .failure
      | some k =>
        if sent.allows k = false then .failure
        else match more with
        | [] => .incomplete
        | g :: rest =>
          if segfGood k g = false then .failure
          else match rest.drop (segfLen g) with
          | hi :: lo :: _ =>
            let payload := rest.take (segfLen g)
            if crc16 (a :: c :: g :: payload) = halfOf hi lo then
              .valid { kind := k, seq := ctrlSeq c, next := ctrlNext c, more := ctrlThird c,
                       first := segfFirst g, last := segfLast g, payload := payload }
            else .failure
          | _ => .incomplete

/-- The even parity of eight data bits: set when they hold an odd number of ones (R1). -/
def evenParity (b : Byte) : Bool :=
  let bit := fun i => b.getLsbD i
  bit 0 ^^ bit 1 ^^ bit 2 ^^ bit 3 ^^ bit 4 ^^ bit 5 ^^ bit 6 ^^ bit 7

/-- The character the part sends for a byte: its even-parity bit and a high stop bit (R1). -/
def sentChar (b : Byte) : FieldChar := { data := b, parity := evenParity b, stop := true }

/-- The characters of a frame the part sends (R1, R3). -/
def sentChars (frame : List Byte) : List FieldChar := frame.map sentChar

/-- A received character with a parity error: its data and parity bits hold an odd number of ones (R1). -/
def charParityError (ch : FieldChar) : Bool := evenParity ch.data ^^ ch.parity

/-- A character whose stop bit is sampled low (R1). -/
def charStopError (ch : FieldChar) : Bool := !ch.stop

/-! ## Limits of Table 20 -/

/-- An individual address, 1 to 239 (Table 9). -/
def addressGood (a : Byte) : Bool := 1 ≤ a.toNat && a.toNat ≤ 239
/-- Class 1 to 4 (Table 20). -/
def classGood (c : Byte) : Bool := 1 ≤ c.toNat && c.toNat ≤ 4
/-- A group-set byte with its upper four bits clear (Table 20). -/
def groupsGood (g : Byte) : Bool := g.toNat < 16
/-- Retry limit 0 to 7 (Table 20). -/
def retryGood (r : Byte) : Bool := r.toNat ≤ 7
/-- Reply timeout 1 to 255 (Table 20). -/
def timeoutGood (t : Byte) : Bool := 1 ≤ t.toNat
/-- Inbox or outbox limit 1 to 16 (Table 20). -/
def limitGood (n : Byte) : Bool := 1 ≤ n.toNat && n.toNat ≤ 16
/-- Inbox trigger 1 to the inbox limit (Table 20, Table 21). -/
def inTriggerGood (trigger limit : Byte) : Bool := 1 ≤ trigger.toNat && trigger.toNat ≤ limit.toNat
/-- Outbox trigger 0 to the outbox limit minus 1 (Table 20, Table 21). -/
def outTriggerGood (trigger limit : Byte) : Bool := trigger.toNat < limit.toNat
/-- Max inbound length 1 to 224 (Table 20). -/
def maxInboundGood (n : Byte) : Bool := 1 ≤ n.toNat && n.toNat ≤ 224

/-- Cells an outbound message of `n` bytes takes, ceil(n/32) (R68). -/
def cellsFor (n : Nat) : Nat := (n + 31) / 32

/-- A payload cut into segments of 32 bytes, the last holding the rest (R68). `fuel` bounds the number
of segments. -/
def segments : Nat → List Byte → List (List Byte)
  | 0, _ => []
  | _ + 1, [] => []
  | fuel + 1, b :: bs => (b :: bs).take 32 :: segments fuel ((b :: bs).drop 32)

/-- The due rule of R108: the round number divided by 2 to the power class minus 1 leaves no remainder. -/
def dueMark (cls roundNumber : Byte) : Bool := roundNumber.toNat % 2 ^ (cls.toNat - 1) = 0

/-- A counter of 255 at most, added to and saturating (R169). -/
def satAdd (c : Byte) (n : Nat) : Byte := byteOf (min 255 (c.toNat + n))

/-- The error total plus 1, saturating at 65535 (R23). -/
def satInc16 (c : Half) : Half := if c = 0xFFFF#16 then c else c + 1#16

/-- The generation issued after `g` (R21). -/
def nextGeneration (g : Byte) : Byte := if g = 0xFF#8 then 1#8 else g + 1#8

end Sys2Proof.Machine
end

