-- ==== Sys2Proof/Machine/Access.lean ====
section
/-!
DEFINITION. The one home of every piece of state: how a drop entry, a Line Controller, the store, the Host Link
Interface and the Attention Unit are read and replaced.
-/

namespace Sys2Proof.Machine

/-- The entry of a slot. -/
def State.drop (s : State) (i : Slot) : Drop := s.drops[i]

/-- Replace the entry of a slot. -/
def State.setDrop (s : State) (i : Slot) (d : Drop) : State := { s with drops := s.drops.set i d }

/-- Change the entry of a slot. -/
def State.modDrop (s : State) (i : Slot) (f : Drop → Drop) : State := s.setDrop i (f (s.drop i))

/-- The Line Controller of a line. -/
def State.lc (s : State) : Line → LineCtl
  | .a => s.lcA
  | .b => s.lcB

/-- Replace the Line Controller of a line. -/
def State.setLc (s : State) (l : Line) (c : LineCtl) : State :=
  match l with
  | .a => { s with lcA := c }
  | .b => { s with lcB := c }

/-- Change the Line Controller of a line. -/
def State.modLc (s : State) (l : Line) (f : LineCtl → LineCtl) : State := s.setLc l (f (s.lc l))

/-- Replace the shared part of the Message Store. -/
def State.setStore (s : State) (st : Store) : State := { s with store := st }

/-- Replace the Host Link Interface. -/
def State.setHli (s : State) (h : Hli) : State := { s with hli := h }

/-- Replace the Attention Unit. -/
def State.setAu (s : State) (a : Attn) : State := { s with au := a }

/-- Replace the retire operation. -/
def State.setRetire (s : State) (r : Option RetireOp) : State := { s with retire := r }

/-- The per-drop instances of a slot. -/
def Attn.slot (a : Attn) (i : Slot) : SlotAttn := a.slots[i]

/-- Change the per-drop instances of a slot. -/
def Attn.modSlot (a : Attn) (i : Slot) (f : SlotAttn → SlotAttn) : Attn :=
  { a with slots := a.slots.set i (f (a.slot i)) }

/-- The per-line instances of a line. -/
def Attn.line (a : Attn) : Line → LineAttn
  | .a => a.lineA
  | .b => a.lineB

/-- Change the per-line instances of a line. -/
def Attn.modLine (a : Attn) (l : Line) (f : LineAttn → LineAttn) : Attn :=
  match l with
  | .a => { a with lineA := f a.lineA }
  | .b => { a with lineB := f a.lineB }

/-- Change the per-drop instances of a slot. -/
def State.modSlotAttn (s : State) (i : Slot) (f : SlotAttn → SlotAttn) : State := s.setAu (s.au.modSlot i f)

/-- Change the per-line instances of a line. -/
def State.modLineAttn (s : State) (l : Line) (f : LineAttn → LineAttn) : State := s.setAu (s.au.modLine l f)

/-- Replace the count of moments. -/
def State.setTimebase (s : State) (n : Nat) : State := { s with timebase := n }

/-- Change the link record of a slot. -/
def State.modLink (s : State) (i : Slot) (f : LinkRecord → LinkRecord) : State :=
  s.modDrop i (fun d => { d with link := f d.link })

/-- The free count (R62). -/
def State.freeCount (s : State) : Nat := s.store.freeCells.length

/-- The slots in ascending order. -/
def allSlots : List Slot := List.finRange 64

/-- A drop that lives: JOINING, ONLINE, SUSPECT or LOST. -/
def DropState.live : DropState → Bool
  | .joining => true
  | .online => true
  | .suspect => true
  | .lost => true
  | .vacant => false
  | .retiring => false

/-- A drop that stands in the poll ring of its line (R26). -/
def DropState.inRing : DropState → Bool
  | .joining => true
  | .online => true
  | .suspect => true
  | .lost => false
  | .vacant => false
  | .retiring => false

/-- The number of complete inbound messages of a drop (R88). -/
def Drop.completeCount (d : Drop) : Nat := d.inbox.length

/-- Complete plus partial inbound messages (R88). -/
def Drop.inboundCount (d : Drop) : Nat := d.inbox.length + (if d.partialMsg.isSome then 1 else 0)

/-- The kept bytes of an inbound message, in order (R63). -/
def InMsg.payload (m : InMsg) : List Byte := m.chain.flatMap Cell.data

/-- The length of an inbound message: the bytes kept so far (Table 30). -/
def InMsg.length (m : InMsg) : Nat := m.payload.length

/-- The non-intact indicator (R95). -/
def Drop.nonIntact (d : Drop) : Bool := d.inbox.any (fun m => m.status != .intact)

/-- The broadcast is still queued on a line (R100). -/
def Bcast.on (b : Bcast) : Line → Bool
  | .a => b.onA
  | .b => b.onB

/-- The line leaves the broadcast's line set (R70). -/
def Bcast.off (b : Bcast) : Line → Bcast
  | .a => { b with onA := false }
  | .b => { b with onB := false }

/-- The line set of the broadcast is empty (R70). -/
def Bcast.done (b : Bcast) : Bool := !b.onA && !b.onB

/-- The broadcast queue of a line, oldest at the head (R100). -/
def State.bcastQueue (s : State) (l : Line) : List Bcast := s.store.bcasts.filter (fun b => b.on l)

end Sys2Proof.Machine
end

