-- ==== Sys2Proof/Machine/Flags.lean ====
section
/-!
DEFINITION. Levels, latched events and eligibility: the hold state and the low state (R74, R76), the attention
instances (R168, R169), their masks and gates (R170), ATTN (R171), the order of selection (R172, R173) and the
notice record (R174).
-/

namespace Sys2Proof.Machine

/-! ## Hold state and levels -/

/-- The hold state after an evaluation on a free count (R74). -/
def holdAfter (hold : Bool) (free : Nat) (holdMark resumeMark : Half) : Bool :=
  if free ≤ holdMark.toNat then true else if resumeMark.toNat ≤ free then false else hold

/-- The low state: the free count at or below the low mark (R76). -/
def State.low (s : State) : Bool := s.freeCount ≤ s.store.lowMark.toNat

/-- The hold state is evaluated and the low mark compared, and a level that goes false clears its
reported flag (R71, R74, R76, R168). -/
def evalPool (s : State) : State :=
  let hold := holdAfter s.store.hold s.freeCount s.store.holdMark s.store.resumeMark
  let low := s.freeCount ≤ s.store.lowMark.toNat
  { s with
    store := { s.store with hold := hold }
    au := { s.au with holdReported := s.au.holdReported && hold, lowReported := s.au.lowReported && low } }

/-- The INBOX_READY level of a drop (R95). -/
def Drop.inboxReady (d : Drop) : Bool :=
  d.state.live && d.inboxTrigger.toNat ≤ d.completeCount

/-- The INBOX_READY level of a slot is evaluated; going false it clears the reported flag (R95, R168). -/
def evalInbox (i : Slot) (s : State) : State :=
  s.modSlotAttn i (fun a => { a with inboxReadyReported := a.inboxReadyReported && (s.drop i).inboxReady })

/-- The LINE_FAULT level of a line (R151). -/
def State.lineFault (s : State) (l : Line) : Bool := (s.lc l).state = .fault

/-! ## Latched events (R169) -/

/-- A DROP_STATE event (R32). -/
def raiseDropState (i : Slot) (s : State) : State := s.modSlotAttn i (fun a => { a with dropState := true })

/-- An INBOX_ALERT event (R93). -/
def raiseInboxAlert (i : Slot) (s : State) : State := s.modSlotAttn i (fun a => { a with inboxAlert := true })

/-- An OUTBOX_LOW event (R85, R99). -/
def raiseOutboxLow (i : Slot) (s : State) : State := s.modSlotAttn i (fun a => { a with outboxLow := true })

/-- A FAILOVER event with the numbers moved and stranded (R155, R169). -/
def raiseFailover (l : Line) (moved stranded : Nat) (s : State) : State :=
  s.modLineAttn l (fun a =>
    { a with failover := true, moved := satAdd a.moved moved, stranded := satAdd a.stranded stranded })

/-- A BCAST_DROPPED event with the number discarded; none when it is 0 (R102, R169). -/
def raiseBcastDropped (l : Line) (n : Nat) (s : State) : State :=
  if n = 0 then s
  else s.modLineAttn l (fun a => { a with bcastDropped := true, dropped := satAdd a.dropped n })

/-- A REPLY_LOST event (R161, R169). -/
def raiseReplyLost (s : State) : State :=
  s.setAu { s.au with replyLost := true, replyLostCount := satAdd s.au.replyLostCount 1 }

/-! ## Instances, masks and eligibility -/

/-- The condition instances of Table 63. -/
inductive Cond where
  | restarted
  | lineFault (l : Line)
  | failover (l : Line)
  | poolHold
  | poolLow
  | replyLost
  | bcastDropped (l : Line)
  | dropState (i : Slot)
  | inboxAlert (i : Slot)
  | inboxReady (i : Slot)
  | outboxLow (i : Slot)
  deriving DecidableEq, Repr

/-- The condition code (Table 63). -/
def Cond.code : Cond → Byte
  | .restarted => 0x01#8
  | .lineFault _ => 0x02#8
  | .failover _ => 0x03#8
  | .poolHold => 0x04#8
  | .poolLow => 0x05#8
  | .replyLost => 0x06#8
  | .bcastDropped _ => 0x07#8
  | .dropState _ => 0x10#8
  | .inboxAlert _ => 0x11#8
  | .inboxReady _ => 0x12#8
  | .outboxLow _ => 0x13#8

/-- The position of a condition's bit in the mask word (R178). -/
def Cond.maskBit : Cond → Nat
  | .restarted => 0
  | .lineFault _ => 1
  | .failover _ => 2
  | .poolHold => 3
  | .poolLow => 4
  | .replyLost => 5
  | .bcastDropped _ => 6
  | .dropState _ => 7
  | .inboxAlert _ => 8
  | .inboxReady _ => 9
  | .outboxLow _ => 10

/-- An instance is pending: a level that is true and not reported, or a latched instance that is set
(R168, R169). -/
def State.condPending (s : State) : Cond → Bool
  | .restarted => s.au.restarted
  | .lineFault l => s.lineFault l && !(s.au.line l).faultReported
  | .failover l => (s.au.line l).failover
  | .poolHold => s.store.hold && !s.au.holdReported
  | .poolLow => s.low && !s.au.lowReported
  | .replyLost => s.au.replyLost
  | .bcastDropped l => (s.au.line l).bcastDropped
  | .dropState i => (s.au.slot i).dropState
  | .inboxAlert i => (s.au.slot i).inboxAlert
  | .inboxReady i => (s.drop i).inboxReady && !(s.au.slot i).inboxReadyReported
  | .outboxLow i => (s.au.slot i).outboxLow

/-- The gate of an instance: its mask, and for a per-drop kind the notify flag of its drop; RESTARTED has
none (R170). -/
def State.condOpen (s : State) : Cond → Bool
  | .restarted => true
  | .dropState i => s.au.masks.getLsbD 7 && (s.drop i).notify
  | .inboxAlert i => s.au.masks.getLsbD 8 && (s.drop i).notify
  | .inboxReady i => s.au.masks.getLsbD 9 && (s.drop i).notify
  | .outboxLow i => s.au.masks.getLsbD 10 && (s.drop i).notify
  | c => s.au.masks.getLsbD c.maskBit

/-- An instance is eligible (R170). -/
def State.eligible (s : State) (c : Cond) : Bool := s.condPending c && s.condOpen c

/-- The slots in rotating order, starting after the scan pointer (R173). -/
def rotated (p : Slot) : List Slot :=
  allSlots.filter (fun i => p < i) ++ allSlots.filter (fun i => i ≤ p)

/-- All 266 instances in the order of Table 64. -/
def State.selectionOrder (s : State) : List Cond :=
  [.restarted, .lineFault .a, .lineFault .b, .failover .a, .failover .b, .poolHold, .poolLow, .replyLost,
   .bcastDropped .a, .bcastDropped .b]
  ++ (rotated s.au.ptrDropState).map .dropState
  ++ (rotated s.au.ptrInboxAlert).map .inboxAlert
  ++ (rotated s.au.ptrInboxReady).map .inboxReady
  ++ (rotated s.au.ptrOutboxLow).map .outboxLow

/-- The instance the Attention Unit selects for a notice, if any (R172). -/
def State.selected (s : State) : Option Cond := s.selectionOrder.find? s.eligible

/-- ATTN is asserted (low) while an instance is eligible, and not while RESETN is held low (R167, R171). -/
def State.attnAsserted (s : State) : Bool := !s.hli.inReset && s.selectionOrder.any s.eligible

/-! ## The notice -/

/-- The location byte of a notice (R174). -/
def Cond.location : Cond → Byte
  | .lineFault l => lineByte l
  | .failover l => lineByte l
  | .bcastDropped l => lineByte l
  | .dropState i => slotByte i
  | .inboxAlert i => slotByte i
  | .inboxReady i => slotByte i
  | .outboxLow i => slotByte i
  | .restarted => 0xFF#8
  | .poolHold => 0xFF#8
  | .poolLow => 0xFF#8
  | .replyLost => 0xFF#8

/-- The data of a notice (Table 65, Table 69). -/
def State.noticeData (s : State) : Cond → List Byte
  | .restarted => [Config.revision]
  | .lineFault l => [byteOf (s.lc l).failCount]
  | .failover l => [(s.au.line l).moved, (s.au.line l).stranded]
  | .poolHold => halfBytes s.freeCount
  | .poolLow => halfBytes s.freeCount
  | .replyLost => [s.au.replyLostCount]
  | .bcastDropped l => [(s.au.line l).dropped]
  | .dropState i => [(s.drop i).state.code, (s.drop i).generation]
  | .inboxAlert i => [(s.drop i).generation]
  | .inboxReady i => [(s.drop i).generation, byteOf (s.drop i).completeCount]
  | .outboxLow i => [(s.drop i).generation, byteOf (s.drop i).outbox.length]

/-- The notice record of an instance (R174): tag 00h, kind F0h. -/
def State.notice (s : State) (c : Cond) : OutRecord :=
  { tag := 0x00#8, kind := 0xF0#8, body := c.code :: c.location :: s.noticeData c, origin := .notice }

/-- The effects of sending a notice on its instance: a level is reported, a latched instance is cleared
with its counts, and the scan pointer of a per-drop kind names the slot (R173, R174). -/
def noticeSent (c : Cond) (s : State) : State :=
  match c with
  | .restarted => s.setAu { s.au with restarted := false }
  | .lineFault l => s.modLineAttn l (fun a => { a with faultReported := true })
  | .failover l => s.modLineAttn l (fun a => { a with failover := false, moved := 0, stranded := 0 })
  | .poolHold => s.setAu { s.au with holdReported := true }
  | .poolLow => s.setAu { s.au with lowReported := true }
  | .replyLost => s.setAu { s.au with replyLost := false, replyLostCount := 0 }
  | .bcastDropped l => s.modLineAttn l (fun a => { a with bcastDropped := false, dropped := 0 })
  | .dropState i =>
    s.setAu { s.au.modSlot i (fun a => { a with dropState := false }) with ptrDropState := i }
  | .inboxAlert i =>
    s.setAu { s.au.modSlot i (fun a => { a with inboxAlert := false }) with ptrInboxAlert := i }
  | .inboxReady i =>
    s.setAu { s.au.modSlot i (fun a => { a with inboxReadyReported := true }) with ptrInboxReady := i }
  | .outboxLow i =>
    s.setAu { s.au.modSlot i (fun a => { a with outboxLow := false }) with ptrOutboxLow := i }

end Sys2Proof.Machine
end

