-- ==== Sys2Proof/Machine/Ops.lean ====
section
/-!
DEFINITION. The operations the commands share: taking from and returning to the free lists, outbox and inbox
operations, the collections of a line, broadcasts, and the posting and sending of records.
-/

namespace Sys2Proof.Machine

/-! ## Free lists (R62, R64, R71) -/

/-- Cells and records return to the tails of the free lists (R71), without the evaluation. -/
def giveBack (cells recs : List Nat) (s : State) : State :=
  s.setStore { s.store with freeCells := s.store.freeCells ++ cells, freeRecords := s.store.freeRecords ++ recs }

/-- Freeing: the cells and records return, then the hold state and low mark are evaluated (R71). -/
def freeAll (cells recs : List Nat) (s : State) : State := evalPool (giveBack cells recs s)

/-- Allocation of cells and records from the heads of the free lists, evaluated at its end (R62, R71). -/
def takeAway (cells recs : Nat) (s : State) : State :=
  evalPool (s.setStore { s.store with
    freeCells := s.store.freeCells.drop cells, freeRecords := s.store.freeRecords.drop recs })

/-- The record number an allocation takes (R64). -/
def State.nextRecord (s : State) : Nat := s.store.freeRecords.headD 0

/-- Payload segments written into the cells at the head of the free list (R63, R68). -/
def writeCells (free : List Nat) (segs : List (List Byte)) : List Cell :=
  List.zipWith (fun n d => { no := n, data := d }) free segs

/-- The cell numbers of a chain, in chain order. -/
def chainNos (c : List Cell) : List Nat := c.map Cell.no

/-- The cells of a drop's inbound messages: inbox in order, then the partial message (log 14). -/
def Drop.inboundCells (d : Drop) : List Nat :=
  d.inbox.flatMap (fun m => chainNos m.chain) ++ (d.partialMsg.toList.flatMap (fun m => chainNos m.chain))

/-- The records of a drop's inbound messages, in the same order. -/
def Drop.inboundRecs (d : Drop) : List Nat := d.inbox.map InMsg.recNo ++ d.partialMsg.toList.map InMsg.recNo

/-- The cells of a drop's outbox, in order. -/
def Drop.outboxCells (d : Drop) : List Nat := d.outbox.flatMap (fun m => chainNos m.chain)

/-- The records of a drop's outbox, in order. -/
def Drop.outboxRecs (d : Drop) : List Nat := d.outbox.map OutMsg.recNo

/-! ## Outbox (R83 to R87) -/

/-- The place of a message in the outbox: a non-urgent one at the tail (R83). -/
def outboxInsert (locked : Bool) (m : OutMsg) : List OutMsg → List OutMsg
  | [] => [m]
  | x :: xs =>
    if m.urgent = false then x :: xs ++ [m]
    else if locked || x.urgent || xs.any OutMsg.urgent then x :: outboxInsert false m xs
    else m :: x :: xs

/-- The next outbound segment of a drop with FIRST, LAST and its bytes, or none (R84). -/
def Drop.nextSegment (d : Drop) : Option (Delivered × Bool × Bool × List Byte) :=
  match d.outbox with
  | [] => none
  | m :: _ =>
    if d.settleWait then none
    else match m.chain[d.link.segIndex]? with
    | none => none
    | some c =>
      some ({ id := m.id, seg := d.link.segIndex }, d.link.segIndex = 0, d.link.segIndex + 1 = m.chain.length, c.data)

/-- Resync-needed is set, with the rewind that every cause asks for; the settle wait ends (R86, R87). -/
def needResync (d : Drop) : Drop :=
  { d with link := { d.link with resyncNeeded := true, segIndex := 0 }, settleWait := false }

/-- The acceptance report of R85: the named segment advances the head, or frees it when it was the last. -/
def acceptSegment (i : Slot) (named : Delivered) (s : State) : State :=
  let d := s.drop i
  match d.outbox with
  | [] => s
  | m :: rest =>
    if d.headLock && m.id = named.id then
      if named.seg + 1 = m.chain.length then
        let s1 := s.setDrop i { d with outbox := rest, headLock := false, link := { d.link with segIndex := 0 } }
        let s2 := freeAll (chainNos m.chain) [m.recNo] s1
        if d.outboxTrigger.toNat < d.outbox.length ∧ rest.length ≤ d.outboxTrigger.toNat then raiseOutboxLow i s2
        else s2
      else s.modLink i (fun k => { k with segIndex := k.segIndex + 1 })
    else s

/-! ## Inbox (R88 to R95) -/

/-- The alert mark of a message that joins the inbox (R93). -/
def alertMarkOf (alert : Option Byte) (m : InMsg) : Bool :=
  match alert, m.payload with
  | some a, p :: _ => a = p
  | _, _ => false

/-- A message joins the inbox tail with the next inbound id and its alert mark decided; INBOX_ALERT and
INBOX_READY follow (R93, R94, R95). The partial slot is emptied. -/
def joinInbox (i : Slot) (m : InMsg) (s : State) : State :=
  let d := s.drop i
  let mark := alertMarkOf d.alertByte m
  let s1 := s.setDrop i { d with
    inbox := d.inbox ++ [{ m with id := some d.nextInId, alertMark := mark }]
    nextInId := d.nextInId + 1#8
    partialMsg := none }
  let s2 := if mark then raiseInboxAlert i s1 else s1
  evalInbox i s2

/-- The cut-off of a partial message, if there is one (R94). -/
def cutOff (i : Slot) (s : State) : State :=
  match (s.drop i).partialMsg with
  | none => s
  | some p => joinInbox i { p with status := .incomplete } s

/-- The bytes of a segment that are kept (R91): `len` and `segs` are the length and segment count before it. -/
def keptBytes (maxInbound : Byte) (status : InStatus) (len : Nat) (segs : Nat) (data : List Byte) : List Byte :=
  if status = .overlong ∨ 7 ≤ segs then [] else data.take (maxInbound.toNat - len)

/-- A segment with FIRST, after any cut-off: refused, or accepted as a new message (R89). -/
def offerFirst (i : Slot) (last : Bool) (data : List Byte) (s : State) : Bool × State :=
  let d := s.drop i
  match s.store.freeCells, s.store.freeRecords with
  | c :: _, r :: _ =>
    if d.inboxLimit.toNat ≤ d.inboundCount ∨ s.store.hold then (false, s)
    else
      let kept := data.take d.maxInbound.toNat
      let m : InMsg :=
        { recNo := r, id := none, chain := [{ no := c, data := kept }],
          status := if kept.length < data.length then .overlong else .intact,
          alertMark := false, fetched := false, segCount := 1 }
      let s1 := takeAway 1 1 s
      (true, if last then joinInbox i m s1 else s1.modDrop i (fun d => { d with partialMsg := some m }))
  | _, _ => (false, s)

/-- A continuation segment of a partial message (R90, R91). -/
def offerContinuation (i : Slot) (p : InMsg) (last : Bool) (data : List Byte) (s : State) : Bool × State :=
  let d := s.drop i
  let kept := keptBytes d.maxInbound p.status p.length p.segCount.toNat data
  let status := if kept.length < data.length then .overlong else p.status
  let settle := fun (m : InMsg) (s : State) =>
    if last then joinInbox i m s else s.modDrop i (fun d => { d with partialMsg := some m })
  let count := satAdd p.segCount 1
  if kept.isEmpty then (true, settle { p with status := status, segCount := count } s)
  else match s.store.freeCells with
  | [] => (false, s)
  | c :: _ =>
    (true, settle { p with chain := p.chain ++ [{ no := c, data := kept }], status := status, segCount := count }
      (takeAway 1 0 s))

/-- A new DATA segment offered to the Message Store: the answer accepted or refused, and the store after
(Table 38, R89 to R92). -/
def offerSegment (i : Slot) (first last : Bool) (data : List Byte) (s : State) : Bool × State :=
  if first then offerFirst i last data (cutOff i s)
  else match (s.drop i).partialMsg with
  | some p => offerContinuation i p last data s
  | none => (true, s.modDrop i (fun d => { d with errorTotal := satInc16 d.errorTotal }))

/-! ## Poll ring, probe list, urgent queue (R103 to R106) -/

/-- The place of a slot in the ring, if it stands there. -/
def ringPlace (ring : List RingEntry) (i : Slot) : Option Nat := ring.findIdx? (fun e => e.slot = i)

/-- Removal from the ring where it stands; the cursor names the entry that followed, and a ring visit
deferred to the removed entry is no longer possible (R104, R113, log 9). -/
def LineCtl.ringRemove (c : LineCtl) (i : Slot) : LineCtl :=
  match ringPlace c.ring i with
  | none => c
  | some k =>
    { c with
      ring := c.ring.eraseIdx k
      cursor := if k < c.cursor then c.cursor - 1 else c.cursor
      deferred := if k = c.cursor ∧ c.deferred = .ring then .clear else c.deferred }

/-- Removal from the probe list where it stands; a probe visit deferred to the removed head is no longer
possible (R105, R113, log 9). -/
def LineCtl.probeRemove (c : LineCtl) (i : Slot) : LineCtl :=
  { c with
    probeList := c.probeList.erase i
    deferred := if c.probeList.head? = some i ∧ c.deferred = .probe then .clear else c.deferred }

/-- Removal from the urgent queue where it stands (R106). -/
def LineCtl.urgentRemove (c : LineCtl) (i : Slot) : LineCtl := { c with urgent := c.urgent.erase i }

/-- Append at the ring tail. During the ring walk the entry gets its due mark at once, and a cursor at the
end names it; after the walk the cursor stays at the end (R104, R108). R108 gives an entry appended after the walk its
mark at the start of the next round; until then the model holds it clear, its choice, log 25. -/
def LineCtl.ringAppend (c : LineCtl) (i : Slot) (cls : Byte) : LineCtl :=
  let walking := c.phase == .ringWalk
  { c with
    ring := c.ring ++ [{ slot := i, due := walking && dueMark cls c.roundNumber }]
    cursor := if !walking && c.cursor == c.ring.length then c.cursor + 1 else c.cursor }

/-- A drop leaves ring, probe list and urgent queue of a line (R49, R56). -/
def leaveLine (l : Line) (i : Slot) (s : State) : State :=
  s.modLc l (fun c => ((c.ringRemove i).probeRemove i).urgentRemove i)

/-- A drop is appended at the ring tail of a line (R103). -/
def joinRing (l : Line) (i : Slot) (s : State) : State :=
  s.modLc l (fun c => c.ringAppend i (s.drop i).cls)

/-- From the ring to the probe-list tail (R30, R154). -/
def ringToProbe (l : Line) (i : Slot) (s : State) : State :=
  s.modLc l (fun c => let c := c.ringRemove i; { c with probeList := c.probeList ++ [i] })

/-- From the probe list to the ring tail (R27). -/
def probeToRing (l : Line) (i : Slot) (s : State) : State :=
  s.modLc l (fun c => (c.probeRemove i).ringAppend i (s.drop i).cls)

/-- A probed drop goes back to the probe-list tail (R105). -/
def probeRequeue (l : Line) (i : Slot) (s : State) : State :=
  s.modLc l (fun c => let c := c.probeRemove i; { c with probeList := c.probeList ++ [i] })

/-- A line on which an urgent entry may be made: RUNNING, STOPPING or STOPPED (R106, Table 55). -/
def LineState.takesUrgent : LineState → Bool
  | .running => true
  | .stopping => true
  | .stopped => true
  | .disabled => false
  | .fault => false

/-- Append at the urgent-queue tail when the drop is not queued and there is room (R106). -/
def LineCtl.urgentEnter (c : LineCtl) (i : Slot) : LineCtl :=
  if c.urgent.contains i || Config.urgentMax ≤ c.urgent.length then c else { c with urgent := c.urgent ++ [i] }

/-! ## Broadcasts (R70, R102) -/

/-- Broadcasts whose line set is empty are freed and the others stay, in one act (R70). -/
def dropDone (bs : List Bcast) (s : State) : State :=
  let gone := bs.filter Bcast.done
  let s1 := s.setStore { s.store with bcasts := bs.filter (fun b => !b.done) }
  if gone.isEmpty then s1 else freeAll (gone.map (fun b => b.cell.no)) (gone.map Bcast.recNo) s1

/-- The line takes or discards one broadcast: it leaves the line's queue and the line leaves its line set
(R70, R102). -/
def takeOff (l : Line) (b : Bcast) (s : State) : State :=
  dropDone (s.store.bcasts.map (fun x => if x = b then x.off l else x)) s

/-- The line discards its whole broadcast queue, with BCAST_DROPPED (R102). -/
def discardBcasts (l : Line) (s : State) : State :=
  let n := (s.bcastQueue l).length
  raiseBcastDropped l n (dropDone (s.store.bcasts.map (fun x => x.off l)) s)

/-! ## Host link: replies (R161 to R164) -/

/-- The phase of an outstanding entry becomes READY when its reply is posted (R162). -/
def markPhase (tag : Byte) (p : ReqPhase) (t : List Outstanding) : List Outstanding :=
  t.map (fun o => if o.tag = tag then { o with phase := p } else o)

/-- A record joins the tail of the ready-reply queue (R162). -/
def enqueue (r : OutRecord) (s : State) : State := s.setHli { s.hli with ready := s.hli.ready ++ [r] }

/-- The reply record to a request: its tag, its kind plus 80h, the code and the data (R164). -/
def replyRecord (tag : Byte) (k : ReqKind) (code : ReplyCode) (data : List Byte) (o : RecordOrigin) : OutRecord :=
  { tag := tag, kind := replyKind k.byte, body := code.byte :: data, origin := o }

/-- The owner posts the reply to an admitted request (R162). -/
def post (tag : Byte) (k : ReqKind) (code : ReplyCode) (data : List Byte) (s : State) : State :=
  enqueue (replyRecord tag k code data .request)
    (s.setHli { s.hli with outstanding := markPhase tag .ready s.hli.outstanding })

/-- An immediate reply: through the immediate-reply slot when it is free, else discarded with REPLY_LOST
(R161). -/
def immediate (tag kind : Byte) (code : ReplyCode) (s : State) : State :=
  if s.hli.immediateUsed then raiseReplyLost s
  else enqueue { tag := tag, kind := kind, body := [code.byte], origin := .immediate }
    (s.setHli { s.hli with immediateUsed := true })

/-! ## Host link: the transmitter (R163) -/

/-- The transmitter, when idle with HRDY asserted, starts the head of the ready-reply queue, or a notice
when the queue is empty (R163, R172). Nothing starts while RESETN is held low (R167). -/
def startTx (s : State) : State :=
  if s.hli.inReset || s.hli.tx.isSome || !s.hli.hrdy then s
  else match s.hli.ready with
  | r :: rest =>
    s.setHli { s.hli with
      tx := some r
      ready := rest
      outstanding := if r.origin = .immediate then s.hli.outstanding
        else markPhase r.tag .sending s.hli.outstanding }
  | [] =>
    match s.selected with
    | none => s
    | some c =>
      let s1 := noticeSent c s
      s1.setHli { s1.hli with tx := some (s.notice c) }

/-! ## Places on the lines (R33, R34) -/

/-- An entry holds or reserves a place (R33). -/
def Drop.holds (d : Drop) (l : Line) (a : Byte) : Bool :=
  d.state != .vacant &&
    ((d.currentLine == l && d.address == a) ||
      (match d.pendingMove with
       | some p => p.line == l && p.address == a
       | none => false))

/-- A place is in use or reserved by an entry other than the one excepted (R34). -/
def State.placeTaken (s : State) (l : Line) (a : Byte) (except : Option Slot) : Bool :=
  allSlots.any (fun i => some i != except && (s.drop i).holds l a)

/-! ## Entry check (R22) -/

/-- The entry check: a slot above 63, a VACANT entry, another generation; else the slot (R22). -/
def State.entryCheck (s : State) (slot gen : Byte) : Except ReplyCode Slot :=
  match slotOf slot with
  | none => .error .badValue
  | some i =>
    if (s.drop i).state = .vacant then .error .notPresent
    else if (s.drop i).generation ≠ gen then .error .stale
    else .ok i

end Sys2Proof.Machine
end

