-- ==== Sys2Proof/Machine/Moves.lean ====
section
/-!
DEFINITION. Moving and retiring drops (chapter 3): the applied move, the pending move at the end of a visit, the
start of a retirement, and the retire operation.
-/

namespace Sys2Proof.Machine

/-! ## Applied moves (R49, R50) -/

/-- Home and alternate line of an applied move with SET_HOME set or clear (R50). -/
def Drop.rehome (line : Line) (setHome : Bool) (d : Drop) : Drop :=
  if setHome then
    { d with homeLine := line, alternate := if d.alternate = some line then some d.homeLine else d.alternate }
  else d

/-- The fields of a drop that takes a new place: the place, a link record to be resynced, the rewind, the end
of the settle wait and of the pending move, and JOINING (R49). -/
def Drop.arrive (line : Line) (addr : Byte) (d : Drop) : Drop :=
  { d with currentLine := line, address := addr, link := .fresh, settleWait := false, state := .joining,
           pendingMove := none }

/-- The effects that an applied move and a failover share: the drop leaves its line, takes its new place, is cut
off and joins the target ring (R49, R153). -/
def relocate (i : Slot) (line : Line) (addr : Byte) (s : State) : State :=
  joinRing line i (cutOff i ((leaveLine (s.drop i).currentLine i s).modDrop i (Drop.arrive line addr)))

/-- An applied move (R49, R50). -/
def applyMove (i : Slot) (line : Line) (addr : Byte) (setHome : Bool) (s : State) : State :=
  relocate i line addr (s.modDrop i (fun d => { d.rehome line setHome with missCount := 0 }))

/-- The pending move of a drop whose visit has ended or was cut off: applied, or abandoned when its target line
is in FAULT, with the reply to its DROP_MOVE (R52, R53). -/
def settlePendingMove (i : Slot) (s : State) : State :=
  match (s.drop i).pendingMove with
  | none => s
  | some p =>
    if (s.lc p.line).state = .fault then
      post p.tag .dropMove .lineUnavailable [] (s.modDrop i (fun d => { d with pendingMove := none }))
    else post p.tag .dropMove .ok [] (applyMove i p.line p.address p.setHome s)

/-! ## Retirement (R54 to R58, R60) -/

/-- A drop stripped by the start of its retirement: no message, no pending move, and the outbox indications
clear (R56). -/
def Drop.stripped (d : Drop) : Drop :=
  { d with state := .retiring, pendingMove := none, outbox := [], headLock := false, settleWait := false,
           inbox := [], partialMsg := none }

/-- The reply ABORTED to an abandoned pending move, if there is one (R56). -/
def abandonMove (m : Option PendingMove) (s : State) : State :=
  match m with
  | none => s
  | some p => post p.tag .dropMove .aborted [] s

/-- A slot begins retiring (R56). -/
def beginRetiring (i : Slot) (s : State) : State :=
  let d := s.drop i
  let s1 := leaveLine d.currentLine i (s.modDrop i Drop.stripped)
  let s2 := abandonMove d.pendingMove s1
  let s3 := freeAll (d.inboundCells ++ d.outboxCells) (d.inboundRecs ++ d.outboxRecs) s2
  s3.modSlotAttn i (fun _ => .clear)

/-- A retired entry becomes VACANT: every field but the generation is cleared (R57). -/
def toVacant (i : Slot) (s : State) : State := s.modDrop i (fun d => .vacant d.generation)

/-- The retire operation counts its next slot as completed (R55). -/
def RetireOp.counted (op : RetireOp) : RetireOp :=
  { op with completed := op.completed + 1, next := op.next + 1 }

/-- The OK to the CANCEL that the retire operation holds, if it was cancelled (R60). -/
def answerCancel (t : Option Byte) (s : State) : State :=
  match t with
  | none => s
  | some tag => post tag .cancel .ok [] s

/-- The retire operation ends with its reply and, when it was cancelled, the OK to its CANCEL (R58, R60). -/
def endRetire (op : RetireOp) (code : ReplyCode) (data : List Byte) (s : State) : State :=
  answerCancel op.cancelTag (post op.tag .dropRetire code data (s.setRetire none))

/-- The retire operation processes slots until one must wait or the range is done, or stops at its CANCEL
(R55, R58, R60). `fuel` bounds the slots processed. With no slot to take, which no run brings about, it stands (log 23). -/
def runRetire : Nat → State → State
  | 0, s => s
  | fuel + 1, s =>
    match s.retire with
    | none => s
    | some op =>
      if op.completed = op.count then endRetire op .ok [byteOf op.completed] s
      else if op.cancelTag.isSome then
        endRetire op .partialDone [byteOf op.completed, byteOf op.next, byteOf (op.count - op.completed)] s
      else match slotOfNat op.next with
        | none => s
        | some i =>
          if (s.drop i).state = .vacant then runRetire fuel (s.setRetire (some op.counted))
          else if (s.drop i).state.live then
            if (s.drop i).link.inFlight then beginRetiring i s
            else runRetire fuel ((toVacant i (beginRetiring i s)).setRetire (some op.counted))
          else s

/-- Every slot of a range and its end fit in this many passes (R54). -/
def retireFuel : Nat := 65

/-- The visit to a RETIRING drop has ended or was cut off: the entry becomes VACANT, the retire operation
counts it and goes on (R57). -/
def finishRetiringVisit (i : Slot) (s : State) : State :=
  let s1 := toVacant i s
  match s1.retire with
  | none => s1
  | some op => if op.next = i.val then runRetire retireFuel (s1.setRetire (some op.counted)) else s1

end Sys2Proof.Machine
end

