-- ==== Sys2Proof/Machine/Rounds.lean ====
section
/-!
DEFINITION. Poll rounds (chapter 6): the phases of a round, the choice of the next visit, the start of a visit
with its frame (R114, R121, R122), and the broadcast window (R110).
-/

namespace Sys2Proof.Machine

/-- A round begins: due marks, cursor at the head, start time now, phase RING WALK, the three flags clear
(R107, R108). Now is a moment after those at which other rounds began, and no time has passed since (log 3). -/
def startRound (l : Line) (s : State) : State :=
  (s.setTimebase (s.timebase + 1)).modLc l (fun c => { c with
    ring := c.ring.map (fun e => { e with due := dueMark (s.drop e.slot).cls c.roundNumber })
    cursor := 0
    phase := .ringWalk
    roundStart := s.timebase + 1
    roundElapsed := 0
    probeStep := false
    deferred := .clear
    idleServed := false })

/-- The line is free: no visit, and no BCAST frame taken (R113). R113 has the line not free while a frame is being sent;
that it is not free either while a taken frame still waits in its gap, on a line stopped and started in that gap, is the
model's choice, log 28. -/
def LineCtl.free (c : LineCtl) : Bool := c.visit.isNone && c.bcastFrame.isNone

/-- A visit, a broadcast or a new round may start: the line is RUNNING and free (R113, R115). -/
def LineCtl.mayAct (c : LineCtl) : Bool := c.state == .running && c.free

/-- The ring walk passes over the entries at the cursor whose due mark is clear (R109). -/
def LineCtl.passOver (c : LineCtl) : LineCtl :=
  if c.phase = .ringWalk then
    { c with cursor := c.cursor + ((c.ring.drop c.cursor).takeWhile (fun e => !e.due)).length }
  else c

/-- The probe window opens: the countdown is lowered; at 0 it is reloaded, and a probe is due when the probe
list is not empty (R111). -/
def LineCtl.probeWindow (c : LineCtl) : LineCtl :=
  let n := c.probeCountdown - 1#8
  if n = 0#8 then
    { c with probeCountdown := c.cfg.probeInterval, probeStep := true,
             phase := if c.probeList.isEmpty then .idle else .probe }
  else { c with probeCountdown := n, probeStep := true, phase := .idle }

/-- A probe window taken up again: with its step clear it opens now, with its step done it ends when there is
no drop to probe (R107, R111, R113). No rule names the act that takes it up: the model's choice, log 26. -/
def LineCtl.catchUp (c : LineCtl) : LineCtl :=
  if c.phase = .probe then
    if c.probeStep then (if c.probeList.isEmpty then { c with phase := .idle } else c) else c.probeWindow
  else c

/-- What a line chooses to visit: the drop, the visit's origin, and the deferred flag after it. -/
structure Choice where
  slot : Slot
  origin : Origin
  deferred : Deferred
  deriving DecidableEq, Repr

/-- The urgent check before a ring or probe visit to a drop (R113). A visit deferred before starts without it. -/
def LineCtl.contend (c : LineCtl) (i : Slot) (o : Origin) (d : Deferred) : Choice :=
  if c.deferred = d then { slot := i, origin := o, deferred := .clear }
  else match c.urgent with
  | [] => { slot := i, origin := o, deferred := .clear }
  | u :: _ =>
    if u = i then { slot := i, origin := o, deferred := .clear }
    else { slot := u, origin := .urgent, deferred := d }

/-- The round period, as it stands, is known to have elapsed since the round start time (R112, log 3). -/
def LineCtl.periodOver (c : LineCtl) : Bool := c.cfg.roundPeriod.toNat ≤ c.roundElapsed

/-- The idle period serves the urgent queue: always its first urgent visit, and further ones until the round period has
elapsed, since the next round then begins (R112). -/
def LineCtl.idleServes (c : LineCtl) : Bool := !c.idleServed || !c.periodOver

/-- The next visit of a free line, if there is one (R109, R111, R112, R113). -/
def LineCtl.choose (c : LineCtl) : Option Choice :=
  match c.phase with
  | .ringWalk => (c.ring[c.cursor]?).map (fun e => c.contend e.slot .ring .ring)
  | .broadcast => none
  | .probe => c.probeList.head?.map (fun i => c.contend i .probe .probe)
  | .idle =>
    if c.idleServes then c.urgent.head?.map (fun i => { slot := i, origin := .urgent, deferred := .clear }) else none

/-- HOLD in force for a drop (R14, R122). -/
def State.holdFor (s : State) (d : Drop) : Bool := s.store.hold || d.inboundCount == d.inboxLimit.toNat

/-- A frame as built for a visit: its kind, its bytes and the segment it delivers. -/
structure Built where
  kind : MasterKind
  bytes : List Byte
  delivered : Option Delivered
  deriving DecidableEq, Repr

/-- The frame of a visit that starts now (R121, R122). -/
def State.buildFrame (s : State) (i : Slot) : Built :=
  let d := s.drop i
  let k := d.link
  let hold := s.holdFor d
  if k.resyncNeeded then
    { kind := .resync, delivered := none,
      bytes := frameBytes d.address (ctrlByte MasterKind.resync.nibble false false false)
        (segfByte false false 1) [d.groups] }
  else match d.nextSegment with
  | none =>
    { kind := .poll, delivered := none,
      bytes := frameBytes d.address (ctrlByte MasterKind.poll.nibble false k.expectedIn hold)
        (segfByte false false 0) [] }
  | some (named, first, last, data) =>
    { kind := .deliver, delivered := some named,
      bytes := frameBytes d.address (ctrlByte MasterKind.deliver.nibble k.seqOut k.expectedIn hold)
        (segfByte first last data.length) data }

/-- The visit record of a visit that starts now (Table 47). -/
def State.newVisit (s : State) (i : Slot) (o : Origin) : Visit :=
  let d := s.drop i
  let b := s.buildFrame i
  { slot := i, origin := o, stateAtStart := d.state, frame := sentChars b.bytes, kind := b.kind, address := d.address,
    delivered := b.delivered, attemptLimit := 1 + d.retryLimit.toNat, replyTimeout := d.replyTimeout,
    attempts := 0, phase := .gap }

/-- The line's part of a visit's start: the drop leaves the urgent queue, a ring visit moves the cursor, and an
urgent visit of the idle period is noted (R112, R114). -/
def LineCtl.openVisit (c : LineCtl) (ch : Choice) (v : Visit) : LineCtl :=
  { c.urgentRemove ch.slot with
    cursor := if ch.origin = .ring then c.cursor + 1 else c.cursor
    deferred := ch.deferred
    idleServed := c.idleServed || c.phase == .idle
    visit := some v
    receiver := .notWaiting }

/-- A visit starts: in-flight is set, the head lock is set with a DELIVER, and the visit record is made
(R84, R114, R120, R121). -/
def startVisit (l : Line) (ch : Choice) (s : State) : State :=
  let v := s.newVisit ch.slot ch.origin
  (s.modDrop ch.slot (fun d =>
      { d with link := { d.link with inFlight := true }, headLock := d.headLock || v.delivered.isSome })).modLc l
    (fun c => c.openVisit ch v)

/-- VISIT_START: the free line passes over entries that are not due, takes up its probe window, and starts the
visit it chooses, if any (R109 to R114, log 21). -/
def visitStart (l : Line) (s : State) : State :=
  if (s.lc l).mayAct then
    let c := (s.lc l).passOver.catchUp
    let s1 := s.setLc l c
    match c.choose with
    | none => s1
    | some ch => startVisit l ch s1
  else s

/-! ## The broadcast window (R110) -/

/-- The BCAST frame of a broadcast (R102, Table 10). -/
def Bcast.frame (b : Bcast) : List Byte :=
  frameBytes b.target.addr (ctrlByte bcastNibble false false false) (segfByte true true b.cell.data.length) b.cell.data

/-- The probe window follows the broadcast window at once (R110, log 10). -/
def enterProbe (l : Line) (s : State) : State := s.modLc l (fun c => { c with phase := .probe }.probeWindow)

/-- The ring walk is over: the cursor stands at the end (R109). -/
def LineCtl.walkOver (c : LineCtl) : Bool := c.phase == .ringWalk && c.ring.length ≤ c.cursor

/-- The broadcast window opens: the head of the queue is taken into a frame, or an empty queue ends the window
(R102, R110). -/
def openWindow (l : Line) (s : State) : State :=
  match s.bcastQueue l with
  | [] => enterProbe l s
  | b :: _ =>
    takeOff l b (s.modLc l (fun c =>
      { c with phase := .broadcast, bcastFrame := some { chars := sentChars b.frame, sending := false } }))

/-- BROADCAST_WINDOW: the free line whose ring walk is over opens its broadcast window (R109, R110). -/
def broadcastWindow (l : Line) (s : State) : State :=
  if (s.lc l).mayAct && (s.lc l).passOver.walkOver then openWindow l (s.modLc l LineCtl.passOver) else s

/-- BCAST_FRAME_END: the frame being sent has ended; on a RUNNING line the probe window follows (R110). -/
def bcastFrameEnd (l : Line) (s : State) : State :=
  match (s.lc l).bcastFrame with
  | some f =>
    if f.sending then
      let s1 := s.modLc l (fun c => { c with bcastFrame := none })
      if (s.lc l).phase = .broadcast then enterProbe l s1 else s1
    else s
  | none => s

/-! ## The idle period (R112) -/

/-- The end of the idle period may be taken: the line is free in IDLE, and the urgent queue has received its
due (R112). -/
def LineCtl.idleOver (c : LineCtl) : Bool := c.phase == .idle && (c.urgent.isEmpty || c.idleServed)

/-- The round of a line has lasted its round period. If the round in progress on the other line began before it, that much
more time has passed since that one began; if it began after, nothing is known of it (R112, log 3). -/
def passPeriod (l : Line) (s : State) : State :=
  s.modLc l.other (fun c =>
    if c.roundStart < (s.lc l).roundStart then
      { c with roundElapsed := c.roundElapsed + (s.lc l).cfg.roundPeriod.toNat }
    else c)

/-- ROUND_PERIOD_ELAPSED: the idle period ends and the next round begins (R112). A probe window that was interrupted is
taken up first, and the idle period it ends in may end in the same act: the model's choice, log 26. -/
def roundPeriodElapsed (l : Line) (s : State) : State :=
  if (s.lc l).mayAct && (s.lc l).catchUp.idleOver then
    startRound l ((passPeriod l s).modLc l (fun c => { c.catchUp with roundNumber := c.roundNumber + 1#8 }))
  else s

end Sys2Proof.Machine
end

