-- ==== Sys2Proof/Machine/Supervision.lean ====
section
/-!
DEFINITION. Line supervision and failover (chapter 8): the consecutive-fail count, fault entry, failover, and the
parts of LINE_RESET.
-/

namespace Sys2Proof.Machine

/-- The part answers an outstanding LINE_STOP of a line, and the line holds its tag no longer (R144, R145). -/
def answerStop (l : Line) (code : ReplyCode) (s : State) : State :=
  match (s.lc l).stopTag with
  | none => s
  | some t => post t .lineStop code [] (s.modLc l (fun c => { c with stopTag := none }))

/-! ## Failover (R152 to R154) -/

/-- The drop is moved by failover of a line, and to which line: its alternate line is present and RUNNING, and
the place there is free (R152). -/
def State.failoverTarget (s : State) (i : Slot) : Option Line :=
  match (s.drop i).alternate with
  | none => none
  | some alt =>
    if (s.lc alt).state = .running && !s.placeTaken alt (s.drop i).address (some i) then some alt else none

/-- A drop becomes LOST: from ring to probe list, resync-needed with its rewind, and the cut-off (R30, R154). -/
def loseDrop (i : Slot) (s : State) : State :=
  cutOff i (ringToProbe (s.drop i).currentLine i (s.modDrop i (fun d => { needResync d with state := .lost })))

/-- Counts of drops moved and stranded so far. -/
structure Tally where
  moved : Nat
  stranded : Nat
  deriving DecidableEq, Repr

/-- One slot's turn in the failover of a line (R152, R153, R154). -/
def failoverSlot (l : Line) (p : Tally × State) (i : Slot) : Tally × State :=
  let (n, s) := p
  let d := s.drop i
  if d.currentLine = l && d.state.inRing then
    match s.failoverTarget i with
    | some alt => ({ n with moved := n.moved + 1 }, raiseDropState i (relocate i alt d.address s))
    | none => ({ n with stranded := n.stranded + 1 }, raiseDropState i (loseDrop i s))
  else (n, s)

/-- Failover of a line, slot by slot (R152). -/
def failover (l : Line) (s : State) : Tally × State :=
  allSlots.foldl (failoverSlot l) ({ moved := 0, stranded := 0 }, s)

/-- Fault entry (R151). -/
def faultEntry (l : Line) (s : State) : State :=
  let s1 := s.modLc l (fun c => { c with state := .fault, deferred := .clear, urgent := [] })
  let (n, s2) := failover l (discardBcasts l s1)
  answerStop l .aborted (raiseFailover l n.moved n.stranded s2)

/-! ## The fault check (R148 to R150) -/

/-- The consecutive-fail count after a visit (Table 57). -/
def failCountAfter (n : Nat) (atStart : DropState) (success void : Bool) : Nat :=
  if void then n
  else if success then 0
  else match atStart with
  | .online => n + 1
  | .suspect => n + 1
  | _ => n

/-- The count is updated and the fault check made (R149, R150). -/
def faultCheck (l : Line) (atStart : DropState) (success void : Bool) (s : State) : State :=
  let s1 := s.modLc l (fun c => { c with failCount := failCountAfter c.failCount atStart success void })
  if (s1.lc l).cfg.faultThreshold.toNat ≤ (s1.lc l).failCount then faultEntry l s1 else s1

/-! ## Cut-offs and LINE_RESET (R136, R145, R146) -/

/-- A visit in progress is cut off, and a BCAST frame taken is not sent further (R110, R136). -/
def cutLine (l : Line) (s : State) : State :=
  let s1 := match (s.lc l).visit with
    | none => s
    | some v => s.modLink v.slot (fun k => { k with inFlight := false })
  s1.modLc l (fun c => { c with visit := none, bcastFrame := none, receiver := .notWaiting })

/-- The round position at its starting point, the consecutive-fail count 0 and the urgent queue empty
(R107, R145). R107 names no value for the round start time and the due marks, which stand until the LINE_START that begins
the next round: the model's choice, log 27. -/
def LineCtl.restart (c : LineCtl) : LineCtl :=
  { c with urgent := [], roundNumber := 0, phase := .ringWalk, probeCountdown := c.cfg.probeInterval, cursor := 0,
           probeStep := false, deferred := .clear, idleServed := false, failCount := 0, receiver := .notWaiting }

/-- A drop that LINE_RESET returns to JOINING: ONLINE or SUSPECT (R146). -/
def DropState.falls (st : DropState) : Bool := st == .online || st == .suspect

/-- The entry of a drop whose line is reset, before its cut-off (R146). -/
def Drop.rejoin (d : Drop) : Drop :=
  { d with link := .fresh, settleWait := false, missCount := 0, state := if d.state.falls then .joining else d.state }

/-- LINE_RESET's part for one drop of the line (R146). -/
def resetDrop (l : Line) (s : State) (i : Slot) : State :=
  let d := s.drop i
  if d.currentLine = l && d.state.live then
    let s1 := cutOff i (s.modDrop i Drop.rejoin)
    if d.state.falls then raiseDropState i s1 else s1
  else s

/-- The drop of a cut visit: a RETIRING entry becomes VACANT, a pending move is settled (R145 part 6). -/
def settleCut (v : Option Visit) (s : State) : State :=
  match v with
  | none => s
  | some v =>
    if (s.drop v.slot).state = .retiring then finishRetiringVisit v.slot s else settlePendingMove v.slot s

/-- The line enters DISABLED, and its LINE_FAULT level ends (R145 part 8, R168). -/
def disableLine (l : Line) (s : State) : State :=
  (s.modLc l (fun c => { c with state := .disabled })).modLineAttn l (fun a => { a with faultReported := false })

/-- The act of LINE_RESET up to its own reply (R145). -/
def lineResetAct (l : Line) (s : State) : State :=
  let s1 := discardBcasts l ((cutLine l s).modLc l LineCtl.restart)
  let s2 := allSlots.foldl (resetDrop l) s1
  disableLine l (answerStop l .aborted (settleCut (s.lc l).visit s2))

end Sys2Proof.Machine
end

