-- ==== Sys2Proof/Machine/Visit.lean ====
section
/-!
DEFINITION. The visit (chapter 7) from its first attempt to its end, with the line receiver (R16, R17).
-/

namespace Sys2Proof.Machine

/-! ## Processing a valid reply (R127 to R132) -/

/-- The reply is DATA, EMPTY or BUSY: its NEXT and MORE are read (Table 11, Table 49). -/
def DropKind.carriesNext : DropKind → Bool
  | .data => true
  | .empty => true
  | .busy => true
  | .resyncAck => false
  | .resyncReq => false

/-- The segment a frame delivered, when it was a DELIVER, is reported as accepted (R128). -/
def reportAcceptance (i : Slot) (named : Option Delivered) (s : State) : State :=
  match named with
  | none => s
  | some n => acceptSegment i n s

/-- Part 1: NEXT is compared with SEQ out, and an acceptance flips it (R128, R129). -/
def takeNext (i : Slot) (named : Option Delivered) (next : Bool) (s : State) : State :=
  if next = (s.drop i).link.seqOut then s
  else reportAcceptance i named (s.modLink i (fun k => { k with seqOut := !k.seqOut }))

/-- Part 2: the settle wait is cleared (R87). -/
def clearSettle (i : Slot) (s : State) : State := s.modDrop i (fun d => { d with settleWait := false })

/-- Part 3: a DATA segment is a duplicate, or is offered, and expected in flips when it is accepted (R130). -/
def takeData (i : Slot) (f : DropFrame) (s : State) : State :=
  if f.kind = .data ∧ f.seq = (s.drop i).link.expectedIn then
    let (accepted, s1) := offerSegment i f.first f.last f.payload s
    if accepted then s1.modLink i (fun k => { k with expectedIn := !k.expectedIn }) else s1
  else s

/-- Part 5: MORE enters the drop in the urgent queue unless HOLD is in force for it (R118). -/
def takeMore (l : Line) (i : Slot) (more : Bool) (s : State) : State :=
  if more && !s.store.hold && (s.drop i).inboundCount < (s.drop i).inboxLimit.toNat then
    s.modLc l (fun c => c.urgentEnter i)
  else s

/-- A RESYNC_ACK sets both toggles to 0 and clears resync-needed (R131). -/
def takeResyncAck (i : Slot) (s : State) : State :=
  s.modLink i (fun k => { k with resyncNeeded := false, seqOut := false, expectedIn := false })

/-- A RESYNC_REQ sets resync-needed, rewinds and cuts off (R132). -/
def takeResyncReq (i : Slot) (s : State) : State := cutOff i (s.modDrop i needResync)

/-- The processing of a valid reply, in the order of R127. -/
def processReply (l : Line) (v : Visit) (f : DropFrame) (s : State) : State :=
  match f.kind with
  | .resyncAck => takeResyncAck v.slot s
  | .resyncReq => takeResyncReq v.slot s
  | _ => takeMore l v.slot f.more (takeData v.slot f (clearSettle v.slot (takeNext v.slot v.delivered f.next s)))

/-! ## The outcome report (R27 to R30, R134) -/

/-- The outcome of a visit: failure, or success with the reply's kind a RESYNC_ACK or another. -/
inductive VisitOutcome where
  | failure
  | success
  | successResyncAck
  deriving DecidableEq, Repr

/-- The outcome of a visit with its valid reply, if it had one (R126, R134). -/
def outcomeOf : Option DropFrame → VisitOutcome
  | none => .failure
  | some f => if f.kind = .resyncAck then .successResyncAck else .success

/-- The miss count plus 1, stopping at 255 (R24). -/
def missAfter (n : Byte) : Byte := satAdd n 1

/-- The state after a failed visit, given the miss count after the addition (Table 18). -/
def stateAfterMiss (st : DropState) (miss : Byte) : DropState :=
  match st with
  | .online => if Config.lossThreshold ≤ miss.toNat then .lost else .suspect
  | .suspect => if Config.lossThreshold ≤ miss.toNat then .lost else .suspect
  | .joining => if Config.lossThreshold ≤ miss.toNat then .lost else .joining
  | other => other

/-- The state a drop takes by a success (R27, R28). -/
def stateAfterSuccess (st : DropState) (ack : Bool) : DropState :=
  if ack then (if st.live then .online else st) else if st = .suspect then .online else st

/-- DROP_STATE for a report that changed the state (R32). -/
def noteState (i : Slot) (before : DropState) (s : State) : State :=
  if (s.drop i).state = before then s else raiseDropState i s

/-- A report of success (R27, R28). -/
def reportSuccess (i : Slot) (ack : Bool) (s : State) : State :=
  let d := s.drop i
  let s1 := s.modDrop i (fun d => { d with missCount := 0, state := stateAfterSuccess d.state ack })
  let s2 := if d.state = .lost ∧ ack then probeToRing d.currentLine i s1 else s1
  noteState i d.state s2

/-- A report of failure (R29, R30). -/
def reportFailure (i : Slot) (s : State) : State :=
  let d := s.drop i
  let miss := missAfter d.missCount
  let after := stateAfterMiss d.state miss
  let s1 := s.modDrop i (fun d => { d with missCount := miss, state := after })
  let s2 := if after = .lost ∧ d.state ≠ .lost then loseDrop i s1 else s1
  noteState i d.state s2

/-- The outcome report applied to a drop that is not RETIRING (R134). -/
def report (i : Slot) (o : VisitOutcome) (s : State) : State :=
  match o with
  | .failure => reportFailure i s
  | .success => reportSuccess i false s
  | .successResyncAck => reportSuccess i true s

/-! ## The end-of-visit act (R133, R135) -/

/-- Part 2: a LOST drop goes to the probe-list tail (R105). -/
def requeueProbed (l : Line) (i : Slot) (s : State) : State :=
  if (s.drop i).state = .lost then probeRequeue l i s else s

/-- Part 6: the line is free, a probe visit ends its window, and a STOPPING line becomes STOPPED with the reply to
its LINE_STOP (R111, R133, R144). -/
def freeLine (l : Line) (o : Origin) (s : State) : State :=
  let s1 := s.modLc l (fun c => { c with visit := none, receiver := .notWaiting,
                                         phase := if o = .probe then .idle else c.phase })
  if (s1.lc l).state = .stopping then
    answerStop l .ok (s1.modLc l (fun c => { c with state := .stopped, deferred := .clear }))
  else s1

/-- Part 1, for a drop that is not RETIRING: the valid reply, if there is one, is processed (R127, R133). -/
def takeReply (l : Line) (v : Visit) (reply : Option DropFrame) (s : State) : State :=
  match reply with
  | none => s
  | some f => processReply l v f s

/-- Parts 1 to 4 for a drop that is not RETIRING (R133). -/
def closeLive (l : Line) (v : Visit) (reply : Option DropFrame) (s : State) : State :=
  let s1 := requeueProbed l v.slot (takeReply l v reply s)
  let s2 := s1.modLink v.slot (fun k => { k with inFlight := false })
  settlePendingMove v.slot (report v.slot (outcomeOf reply) s2)

/-- The end-of-visit act (R133), for a RETIRING drop as R135 changes it. An entry that is VACANT ends nothing of
a drop (log 23). -/
def endVisit (l : Line) (v : Visit) (reply : Option DropFrame) (s : State) : State :=
  let st := (s.drop v.slot).state
  let s1 :=
    if st = .retiring then
      finishRetiringVisit v.slot (s.modLink v.slot (fun k => { k with inFlight := false }))
    else if st = .vacant then s
    else closeLive l v reply s
  freeLine l v.origin (faultCheck l v.stateAtStart reply.isSome (!st.live) s1)

/-! ## Attempts (R124, R125) -/

/-- The error total of a drop grows by 1 for a failed attempt (R23, R125). -/
def countError (i : Slot) (s : State) : State := s.modDrop i (fun d => { d with errorTotal := satInc16 d.errorTotal })

/-- An attempt failure: the error total grows, and the visit retries or fails (R125). -/
def attemptFailed (l : Line) (v : Visit) (s : State) : State :=
  let s1 := countError v.slot s
  if v.attempts < v.attemptLimit then
    s1.modLc l (fun c => { c with visit := some { v with phase := .gap }, receiver := .notWaiting })
  else endVisit l v none s1

/-- The frame that waits for the turnaround gap is sent: the attempt of a visit, or the BCAST frame (R15, R124). -/
def sendPending (l : Line) (s : State) : State :=
  match (s.lc l).visit with
  | some v =>
    if v.phase = .gap then
      s.modLc l (fun c => { c with visit := some { v with phase := .send, attempts := v.attempts + 1 } })
    else s
  | none =>
    match (s.lc l).bcastFrame with
    | some f => s.modLc l (fun c => { c with bcastFrame := some { f with sending := true } })
    | none => s

/-- TURNAROUND_GAP_ELAPSED: the measured gap is over; a measurement held by a low input does not elapse (R15). -/
def turnaroundGapElapsed (l : Line) (s : State) : State := if (s.lc l).gapHeld then s else sendPending l s

/-- GAP_WAIT_LIMIT_EXPIRY: the frame is sent regardless (R15). -/
def gapWaitLimitExpiry (l : Line) (s : State) : State := sendPending l s

/-- FRAME_SENT: the last stop bit of the visit's frame ends, and a reply is awaited (R16, Table 48). -/
def frameSent (l : Line) (s : State) : State :=
  match (s.lc l).visit with
  | some v =>
    if v.phase = .send then
      s.modLc l (fun c => { c with visit := some { v with phase := .reply }, receiver := .awaitingReply })
    else s
  | none => s

/-- REPLY_TIMEOUT: no reply began (R16, R17). -/
def replyTimeout (l : Line) (s : State) : State :=
  match (s.lc l).visit with
  | some v => if (s.lc l).receiver = .awaitingReply then attemptFailed l v s else s
  | none => s

/-- The line receiver stands inside a reply (R16). -/
def Receiver.inReply : Receiver → Bool
  | .receiving _ => true
  | .awaitingReply => false
  | .notWaiting => false

/-- INTRA_FRAME_GAP_EXPIRY: no character began in time inside a reply (R16, R17). -/
def intraFrameGapExpiry (l : Line) (s : State) : State :=
  match (s.lc l).visit with
  | some v => if (s.lc l).receiver.inReply then attemptFailed l v s else s
  | none => s

/-! ## Characters from the line (R1, R16, R17) -/

/-- The driver enable of a line is high: a frame is being sent, and RESETN is not held low (R124, R167). -/
def State.driving (s : State) (l : Line) : Bool :=
  !s.hli.inReset &&
    ((match (s.lc l).visit with
      | some v => v.phase == .send
      | none => false) ||
     (match (s.lc l).bcastFrame with
      | some f => f.sending
      | none => false))

/-- The characters on a line's transmit output: those of the frame being sent, while the driver enable is high
(R1, R6, R124). -/
def State.sending (s : State) (l : Line) : List FieldChar :=
  if s.hli.inReset then []
  else match (s.lc l).visit.filter (fun v => v.phase == .send), (s.lc l).bcastFrame.filter BcastFrame.sending with
  | some v, _ => v.frame
  | none, some f => f.chars
  | none, none => []

/-- The bytes of the reply so far, when the receiver awaits or receives one (R16). -/
def Receiver.bytes : Receiver → Option (List Byte)
  | .notWaiting => none
  | .awaitingReply => some []
  | .receiving bs => some bs

/-- A character taken as the next byte of a reply, with the tests of R17. -/
def takeReplyChar (l : Line) (v : Visit) (got : List Byte) (ch : FieldChar) (s : State) : State :=
  if charParityError ch || charStopError ch then attemptFailed l v s
  else
    let bytes := got ++ [ch.data]
    match judgeReply v.kind v.address bytes with
    | .failure => attemptFailed l v s
    | .valid f => endVisit l v (some f) s
    | .incomplete => s.modLc l (fun c => { c with receiver := .receiving bytes })

/-- A character with a stop-bit error leaves the input low: no further start bit, and the gap measurement held
(R1, R15, log 13). -/
def noteStopError (l : Line) (ch : FieldChar) (s : State) : State :=
  if charStopError ch then s.modLc l (fun c => { c with rxLow := true, gapHeld := true }) else s

/-- A field character arrives. Nothing arrives while the input stays low after a stop-bit error; a character seen
while the part drives the line, or awaits no reply, is discarded (R1, R16). -/
def fieldChar (l : Line) (ch : FieldChar) (s : State) : State :=
  if (s.lc l).rxLow then s
  else
    let s1 := noteStopError l ch s
    if s.driving l then s1
    else match (s.lc l).visit, (s.lc l).receiver.bytes with
    | some v, some got => takeReplyChar l v got ch s1
    | _, _ => s1

/-- The characters of a reply arrive in turn, the last one its second CRC byte (R17). -/
def replyFrame (l : Line) (chars : List FieldChar) (s : State) : State :=
  chars.foldl (fun s ch => fieldChar l ch s) s

/-- FIELD_RECEIVE_INPUT_RETURNS_HIGH: start bits are looked for again, and the gap measurement starts again
(R1, R15). -/
def fieldInputHigh (l : Line) (s : State) : State :=
  s.modLc l (fun c => { c with rxLow := false, gapHeld := false })

end Sys2Proof.Machine
end

