-- ==== Sys2Proof/Machine/Requests.lean ====
section
/-!
DEFINITION. What the owners of the host requests share: the checks in order, the reply to their outcome, and the
snapshots of an entry, of the store, of a line and of the Attention Unit.
-/

namespace Sys2Proof.Machine

/-- A check of a request: it passes, or decides the reply code. -/
def require (ok : Bool) (code : ReplyCode) : Except ReplyCode Unit := if ok then .ok () else .error code

/-- A check that yields the value it read, or decides the reply code. -/
def requireSome {α : Type} (v : Option α) (code : ReplyCode) : Except ReplyCode α :=
  match v with
  | some a => .ok a
  | none => .error code

/-- The outcome of a request's checks: the code of the first failed check with nothing changed, or OK with the
reply data and the state after the request's effects (R164). -/
abbrev Answer := Except ReplyCode (List Byte × State)

/-- The owner posts the reply to its request (R162, R164). -/
def reply (tag : Byte) (k : ReqKind) (s : State) (a : Answer) : State :=
  match a with
  | .error code => post tag k code [] s
  | .ok (data, s') => post tag k .ok data s'

/-- The entry quoted by its slot alone: a slot above 63 gives BAD_VALUE (R22). -/
def slotCheck (slot : Byte) : Except ReplyCode Slot := requireSome (slotOf slot) .badValue

/-- The line a byte names, else BAD_VALUE (R178, R179). -/
def lineCheck (b : Byte) : Except ReplyCode Line := requireSome (lineOf b) .badValue

/-! ## Snapshots -/

/-- The pending move of a DROP_QUERY reply (Table 70). -/
def moveBytes : Option PendingMove → List Byte
  | none => [0xFF#8, 0x00#8]
  | some p => [lineByte p.line, p.address]

/-- The 30 bytes of a DROP_QUERY reply (R42, Table 23, Table 70). -/
def Drop.snapshot (d : Drop) : List Byte :=
  [d.state.code, d.generation, d.address, lineByte d.homeLine, lineByte d.currentLine, optLineByte d.alternate,
   d.cls, d.groups, d.retryLimit, d.replyTimeout, d.inboxLimit, d.inboxTrigger, d.outboxLimit, d.outboxTrigger,
   d.maxInbound, flagByte d.notify]
  ++ alertBytes d.alertByte
  ++ [d.missCount, hiByte d.errorTotal, loByte d.errorTotal, d.nextOutId, d.nextInId,
      byteOf d.inbox.length, flagByte d.partialMsg.isSome, byteOf d.outbox.length, flagByte d.nonIntact]
  ++ moveBytes d.pendingMove ++ [flagByte d.link.inFlight]

/-- The 128 bytes of a DROP_SCAN reply (R43). -/
def State.scan (s : State) : List Byte := allSlots.flatMap (fun i => [(s.drop i).state.code, (s.drop i).generation])

/-- A sum over the slots. -/
def sumSlots (f : Slot → Nat) : Nat := (allSlots.map f).sum

/-- Cells in the chains of all OUT messages (Table 35). -/
def State.outboundCells (s : State) : Nat := sumSlots (fun i => (s.drop i).outboxCells.length)

/-- Cells in the chains of a list of IN messages. -/
def chainCells (ms : List InMsg) : Nat := (ms.map (fun m => m.chain.length)).sum

/-- Cells in the chains of all complete IN messages (Table 35). -/
def State.inboxCells (s : State) : Nat := sumSlots (fun i => chainCells (s.drop i).inbox)

/-- Cells in the chains of all partial IN messages (Table 35). -/
def State.partialCells (s : State) : Nat := sumSlots (fun i => chainCells (s.drop i).partialMsg.toList)

/-- The data of a POOL_STATUS reply (R80, Table 35, Table 68). -/
def State.poolSnapshot (s : State) : List Byte :=
  halfBytes s.freeCount ++ halfBytes s.store.freeRecords.length ++ halfBytes s.outboundCells
  ++ halfBytes s.inboxCells ++ halfBytes s.partialCells ++ halfBytes s.store.bcasts.length
  ++ [hiByte s.store.holdMark, loByte s.store.holdMark, hiByte s.store.resumeMark, loByte s.store.resumeMark,
      hiByte s.store.lowMark, loByte s.store.lowMark, flagByte s.store.hold, flagByte s.low]

/-- The slot in flight of a LINE_STATUS reply (Table 56, R178). -/
def slotInFlight : Option Visit → Byte
  | none => 0xFF#8
  | some v => slotByte v.slot

/-- The data of a LINE_STATUS reply (R147, Table 56, Table 68). -/
def State.lineSnapshot (s : State) (l : Line) : List Byte :=
  let c := s.lc l
  [c.state.code, c.cfg.rateCode, c.cfg.gap, c.cfg.roundPeriod, c.cfg.probeInterval, c.cfg.faultThreshold,
   c.roundNumber, byteOf c.ring.length, byteOf c.probeList.length, byteOf c.urgent.length,
   byteOf (s.bcastQueue l).length, byteOf c.failCount, slotInFlight c.visit]

/-- Flags as the bits of a byte, bit 0 first. -/
def bitsByte (bs : List Bool) : Byte := byteOf (bs.foldr (fun b n => b.toNat + 2 * n) 0)

/-- The four bytes of a line in an ATTN_PEEK reply (Table 71). -/
def State.peekLine (s : State) (l : Line) : List Byte :=
  let a := s.au.line l
  [bitsByte [s.condPending (.lineFault l), a.faultReported, a.failover, a.bcastDropped], a.moved, a.stranded, a.dropped]

/-- The byte of a slot in an ATTN_PEEK reply (Table 71). -/
def State.peekSlot (s : State) (i : Slot) : Byte :=
  let a := s.au.slot i
  bitsByte [a.dropState, a.inboxAlert, a.outboxLow, s.condPending (.inboxReady i), a.inboxReadyReported]

/-- The 80 bytes of an ATTN_PEEK reply (R176, Table 71). -/
def State.peek (s : State) : List Byte :=
  [hiByte s.au.masks, loByte s.au.masks,
   bitsByte [s.au.restarted, s.condPending .poolHold, s.au.holdReported, s.condPending .poolLow, s.au.lowReported,
             s.au.replyLost],
   s.au.replyLostCount]
  ++ s.peekLine .a ++ s.peekLine .b ++ allSlots.map s.peekSlot
  ++ [slotByte s.au.ptrDropState, slotByte s.au.ptrInboxAlert, slotByte s.au.ptrInboxReady, slotByte s.au.ptrOutboxLow]

end Sys2Proof.Machine
end

