-- ==== Sys2Proof/Machine/DeviceRequests.lean ====
section
/-!
DEFINITION. DEVICE_INFO and DEVICE_RESTART (R165, R166), and the two requests of the Attention Unit, ATTN_MASK and
ATTN_PEEK (R176, R177). Each act is the owner's, after admission.
-/

namespace Sys2Proof.Machine

/-- DEVICE_INFO (R165). -/
def actDeviceInfo (tag : Byte) (body : List Byte) (s : State) : State :=
  reply tag .deviceInfo s (do
    require body.isEmpty .badLength
    return ([Config.familyCode, Config.partCode, Config.revision, byteOf Config.dropSlots]
      ++ halfBytes Config.cells ++ halfBytes Config.records ++ [byteOf Config.fieldLines], s))

/-- DEVICE_RESTART: the OK is posted, and from this act the restart is pending (R166). -/
def actDeviceRestart (tag : Byte) (body : List Byte) (s : State) : State :=
  if body.isEmpty then
    enqueue (replyRecord tag .deviceRestart .ok [] .restart)
      (s.setHli { s.hli with outstanding := markPhase tag .ready s.hli.outstanding, restartPending := true })
  else post tag .deviceRestart .badLength [] s

/-- A mask word that ATTN_MASK accepts: RESTARTED open, and bits 11 to 15 clear (R177, R178). -/
def maskGood (w : Half) : Bool := w.getLsbD 0 && w.toNat < 2048

/-- ATTN_MASK (R177). -/
def actAttnMask (tag : Byte) (body : List Byte) (s : State) : State :=
  reply tag .attnMask s (match body with
    | [hi, lo] => do
      require (maskGood (halfOf hi lo)) .badValue
      return ([hi, lo], s.setAu { s.au with masks := halfOf hi lo })
    | _ => .error .badLength)

/-- ATTN_PEEK (R176). -/
def actAttnPeek (tag : Byte) (body : List Byte) (s : State) : State :=
  reply tag .attnPeek s (do
    require body.isEmpty .badLength
    return (s.peek, s))

end Sys2Proof.Machine
end

