-- ==== Sys2Proof/Machine/DropRequests.lean ====
section
/-!
DEFINITION. The requests of the Drop Table: DROP_CREATE, DROP_MODIFY, DROP_QUERY, DROP_SCAN (chapter 2),
DROP_MOVE, DROP_RETIRE and CANCEL (chapter 3).
-/

namespace Sys2Proof.Machine

/-! ## DROP_CREATE -/

/-- The values of a DROP_CREATE body from the address on, as Table 68 orders them. -/
structure DropBody where
  address : Byte
  home : Byte
  alternate : Byte
  cls : Byte
  groups : Byte
  retryLimit : Byte
  replyTimeout : Byte
  inboxLimit : Byte
  inboxTrigger : Byte
  outboxLimit : Byte
  outboxTrigger : Byte
  maxInbound : Byte
  notify : Byte
  alertPresence : Byte
  alertValue : Byte
  deriving DecidableEq, Repr

/-- The ranges of Table 20 that are judged byte by byte. -/
def DropBody.rangesGood (b : DropBody) : Bool :=
  addressGood b.address && classGood b.cls && groupsGood b.groups && retryGood b.retryLimit
    && timeoutGood b.replyTimeout && limitGood b.inboxLimit && inTriggerGood b.inboxTrigger b.inboxLimit
    && limitGood b.outboxLimit && outTriggerGood b.outboxTrigger b.outboxLimit && maxInboundGood b.maxInbound

/-- The new drop of an accepted DROP_CREATE, or the BAD_VALUE of R36 (R36, R37). -/
def DropBody.fill (b : DropBody) (generation : Byte) : Except ReplyCode Drop := do
  require b.rangesGood .badValue
  let home ← lineCheck b.home
  let alt ← requireSome (altOf b.alternate) .badValue
  require (alt != some home) .badValue
  let notify ← requireSome (flagOf b.notify) .badValue
  let alert ← requireSome (alertOf b.alertPresence b.alertValue) .badValue
  return { Drop.vacant generation with
    state := .joining, address := b.address, homeLine := home, currentLine := home, alternate := alt,
    cls := b.cls, groups := b.groups, retryLimit := b.retryLimit, replyTimeout := b.replyTimeout,
    inboxLimit := b.inboxLimit, inboxTrigger := b.inboxTrigger, outboxLimit := b.outboxLimit,
    outboxTrigger := b.outboxTrigger, maxInbound := b.maxInbound, notify := notify, alertByte := alert,
    link := .fresh }

/-- The entry of a slot is VACANT. -/
def State.isVacant (s : State) (i : Slot) : Bool := (s.drop i).state == .vacant

/-- The slot byte of DROP_CREATE: a slot, FFh for "any", else BAD_VALUE (R36, R178). -/
def wantedSlot (b : Byte) : Except ReplyCode (Option Slot) :=
  if b = 0xFF#8 then .ok none else (slotCheck b).map some

/-- The slot that DROP_CREATE fills (R35 check 3). -/
def State.pickSlot (s : State) (want : Option Slot) : Except ReplyCode Slot :=
  match want with
  | some i => if s.isVacant i then .ok i else .error .noSlot
  | none => requireSome (allSlots.find? s.isVacant) .noSlot

/-- The new drop takes its slot and joins the ring of its home line (R37). -/
def placeDrop (i : Slot) (d : Drop) (s : State) : State := joinRing d.homeLine i (s.setDrop i d)

/-- The checks and effects of DROP_CREATE with a body of the right length (R35, R37). -/
def createDrop (slot : Byte) (b : DropBody) (s : State) : Answer := do
  let want ← wantedSlot slot
  let d ← b.fill 0
  let i ← s.pickSlot want
  require (!s.placeTaken d.homeLine d.address none) .addressTaken
  let gen := nextGeneration (s.drop i).generation
  return ([slotByte i, gen], placeDrop i { d with generation := gen } s)

/-- DROP_CREATE (R35, R36, R37). -/
def actDropCreate (tag : Byte) (body : List Byte) (s : State) : State :=
  reply tag .dropCreate s (match body with
    | [slot, address, home, alt, cls, groups, retry, timeout, inLim, inTrig, outLim, outTrig, maxIn, ntf, ap, av] =>
      createDrop slot
        { address := address, home := home, alternate := alt, cls := cls, groups := groups, retryLimit := retry,
          replyTimeout := timeout, inboxLimit := inLim, inboxTrigger := inTrig, outboxLimit := outLim,
          outboxTrigger := outTrig, maxInbound := maxIn, notify := ntf, alertPresence := ap, alertValue := av } s
    | _ => .error .badLength)

/-! ## DROP_MODIFY -/

/-- The values of a DROP_MODIFY body after the present word, as Table 68 orders them. -/
structure ModifyBody where
  present : Half
  cls : Byte
  groups : Byte
  alternate : Byte
  retryLimit : Byte
  replyTimeout : Byte
  inboxLimit : Byte
  inboxTrigger : Byte
  outboxLimit : Byte
  outboxTrigger : Byte
  maxInbound : Byte
  notify : Byte
  alertPresence : Byte
  alertValue : Byte
  deriving DecidableEq, Repr

/-- The field of the present word's bit `n` is given (R179). -/
def ModifyBody.has (b : ModifyBody) (n : Nat) : Bool := b.present.getLsbD n

/-- A field's new value when given, its value in the entry otherwise (R39). -/
def pick {α : Type} (given : Bool) (new old : α) : α := if given then new else old

/-- The ranges of the given fields, and the present word's undefined bits clear (R39, R179). -/
def ModifyBody.rangesGood (b : ModifyBody) : Bool :=
  b.present.toNat < 4096 && (!b.has 0 || classGood b.cls) && (!b.has 1 || groupsGood b.groups)
    && (!b.has 3 || retryGood b.retryLimit) && (!b.has 4 || timeoutGood b.replyTimeout)
    && (!b.has 5 || limitGood b.inboxLimit) && (!b.has 6 || 1 ≤ b.inboxTrigger.toNat)
    && (!b.has 7 || limitGood b.outboxLimit) && (!b.has 9 || maxInboundGood b.maxInbound)

/-- The entry with every given field replaced, or BAD_VALUE for a given code that is not defined (R38). -/
def ModifyBody.apply (b : ModifyBody) (d : Drop) : Except ReplyCode Drop := do
  let alt ← if b.has 2 then requireSome (altOf b.alternate) .badValue else .ok d.alternate
  let notify ← if b.has 10 then requireSome (flagOf b.notify) .badValue else .ok d.notify
  let alert ← if b.has 11 then requireSome (alertOf b.alertPresence b.alertValue) .badValue else .ok d.alertByte
  return { d with
    cls := pick (b.has 0) b.cls d.cls, groups := pick (b.has 1) b.groups d.groups, alternate := alt,
    retryLimit := pick (b.has 3) b.retryLimit d.retryLimit,
    replyTimeout := pick (b.has 4) b.replyTimeout d.replyTimeout,
    inboxLimit := pick (b.has 5) b.inboxLimit d.inboxLimit,
    inboxTrigger := pick (b.has 6) b.inboxTrigger d.inboxTrigger,
    outboxLimit := pick (b.has 7) b.outboxLimit d.outboxLimit,
    outboxTrigger := pick (b.has 8) b.outboxTrigger d.outboxTrigger,
    maxInbound := pick (b.has 9) b.maxInbound d.maxInbound, notify := notify, alertByte := alert }

/-- The relations of Table 21, on the entry as it will stand. -/
def Drop.relationsGood (d : Drop) : Bool :=
  d.alternate != some d.homeLine && d.inboxTrigger.toNat ≤ d.inboxLimit.toNat
    && d.outboxTrigger.toNat < d.outboxLimit.toNat && d.inboundCount ≤ d.inboxLimit.toNat
    && d.outbox.length ≤ d.outboxLimit.toNat

/-- The checks and effects of DROP_MODIFY with a body of the right length (R38, R39, R40). -/
def modifyDrop (slot gen : Byte) (b : ModifyBody) (s : State) : Answer := do
  let i ← s.entryCheck slot gen
  require ((s.drop i).state != .retiring) .wrongState
  require b.rangesGood .badValue
  let d ← b.apply (s.drop i)
  require d.relationsGood .badValue
  return ([], evalInbox i (s.setDrop i d))

/-- DROP_MODIFY (R38). -/
def actDropModify (tag : Byte) (body : List Byte) (s : State) : State :=
  reply tag .dropModify s (match body with
    | [slot, gen, ph, pl, cls, groups, alt, retry, timeout, inLim, inTrig, outLim, outTrig, maxIn, ntf, ap, av] =>
      modifyDrop slot gen
        { present := halfOf ph pl, cls := cls, groups := groups, alternate := alt, retryLimit := retry,
          replyTimeout := timeout, inboxLimit := inLim, inboxTrigger := inTrig, outboxLimit := outLim,
          outboxTrigger := outTrig, maxInbound := maxIn, notify := ntf, alertPresence := ap, alertValue := av } s
    | _ => .error .badLength)

/-! ## DROP_QUERY and DROP_SCAN -/

/-- DROP_QUERY (R42). -/
def actDropQuery (tag : Byte) (body : List Byte) (s : State) : State :=
  reply tag .dropQuery s (match body with
    | [slot] => do
      let i ← slotCheck slot
      return ((s.drop i).snapshot, s)
    | _ => .error .badLength)

/-- DROP_SCAN (R43). -/
def actDropScan (tag : Byte) (body : List Byte) (s : State) : State :=
  reply tag .dropScan s (do
    require body.isEmpty .badLength
    return (s.scan, s))

/-! ## DROP_MOVE -/

/-- A move that has passed its checks: the drop, the target place and SET_HOME. -/
structure MoveOrder where
  slot : Slot
  line : Line
  address : Byte
  setHome : Bool
  deriving DecidableEq, Repr

/-- The checks of DROP_MOVE with a body of the right length, in the order of R44. -/
def checkMove (slot gen line addr flags : Byte) (s : State) : Except ReplyCode MoveOrder := do
  let i ← s.entryCheck slot gen
  let d := s.drop i
  require (d.state != .retiring && d.pendingMove.isNone) .wrongState
  let l ← lineCheck line
  require (addressGood addr && flags.toNat < 4) .badValue
  require (flags.getLsbD 0 || !(l == d.currentLine && addr == d.address)) .same
  require ((s.lc l).state != .fault) .lineUnavailable
  require (!s.placeTaken l addr (some i)) .addressTaken
  return { slot := i, line := l, address := addr, setHome := flags.getLsbD 1 }

/-- The pending move that an accepted move of a drop in flight stores (R51). -/
def holdMove (tag : Byte) (o : MoveOrder) (s : State) : State :=
  s.modDrop o.slot (fun d => { d with
    pendingMove := some { line := o.line, address := o.address, setHome := o.setHome, tag := tag } })

/-- DROP_MOVE on a body of the right length: refused, applied at once, or held pending (R44, R48, R51). -/
def moveDrop (tag : Byte) (checked : Except ReplyCode MoveOrder) (s : State) : State :=
  match checked with
  | .error code => post tag .dropMove code [] s
  | .ok o =>
    if (s.drop o.slot).link.inFlight then holdMove tag o s
    else post tag .dropMove .ok [] (applyMove o.slot o.line o.address o.setHome s)

/-- DROP_MOVE (R44). -/
def actDropMove (tag : Byte) (body : List Byte) (s : State) : State :=
  match body with
  | [slot, gen, line, addr, flags] => moveDrop tag (checkMove slot gen line addr flags s) s
  | _ => post tag .dropMove .badLength [] s

/-! ## DROP_RETIRE -/

/-- A range that DROP_RETIRE accepts (R54). -/
def rangeGood (first count : Byte) : Bool :=
  first.toNat ≤ 63 && 1 ≤ count.toNat && count.toNat ≤ 64 && first.toNat + count.toNat ≤ 64

/-- The retire operation as it starts (R54). -/
def RetireOp.start (tag first count : Byte) : RetireOp :=
  { tag := tag, first := first.toNat, count := count.toNat, next := first.toNat, completed := 0, cancelTag := none }

/-- DROP_RETIRE (R54, R55). -/
def actDropRetire (tag : Byte) (body : List Byte) (s : State) : State :=
  match body with
  | [first, count] =>
    if rangeGood first count = false then post tag .dropRetire .badValue [] s
    else if s.retire.isSome then post tag .dropRetire .wrongState [] s
    else runRetire retireFuel (s.setRetire (some (.start tag first count)))
  | _ => post tag .dropRetire .badLength [] s

/-! ## CANCEL -/

/-- The pending move of an entry carries a tag. -/
def Drop.moveTagIs (d : Drop) (t : Byte) : Bool :=
  match d.pendingMove with
  | some p => p.tag == t
  | none => false

/-- A CANCEL of a pending move withdraws it (R61). -/
def withdrawMove (tag target : Byte) (i : Slot) (s : State) : State :=
  post tag .cancel .ok [] (post target .dropMove .aborted [] (s.modDrop i (fun d => { d with pendingMove := none })))

/-- A CANCEL of the retire operation marks it and waits; any other target tag is not found (R59, R60). -/
def cancelRetire (tag target : Byte) (s : State) : State :=
  match s.retire with
  | some op =>
    if op.tag = target ∧ op.cancelTag = none then s.setRetire (some { op with cancelTag := some tag })
    else post tag .cancel .notFound [] s
  | none => post tag .cancel .notFound [] s

/-- CANCEL (R59, R60, R61). -/
def actCancel (tag : Byte) (body : List Byte) (s : State) : State :=
  match body with
  | [target] =>
    if target = 0#8 then post tag .cancel .badValue [] s
    else match allSlots.find? (fun i => (s.drop i).moveTagIs target) with
      | some i => withdrawMove tag target i s
      | none => cancelRetire tag target s
  | _ => post tag .cancel .badLength [] s

end Sys2Proof.Machine
end

