-- ==== Sys2Proof/Machine/LineRequests.lean ====
section
/-!
DEFINITION. The requests of the Line Controllers: LINE_CONFIG, LINE_START, LINE_STOP, LINE_RESET, LINE_STATUS
(chapter 8) and POLL_NOW (R116).
-/

namespace Sys2Proof.Machine

/-- The line may be configured: DISABLED, or STOPPED with no BCAST frame being finished (R141). -/
def LineCtl.configurable (c : LineCtl) : Bool :=
  c.state == .disabled || (c.state == .stopped && c.bcastFrame.isNone)

/-- A configuration that LINE_CONFIG accepts (R141). -/
def LineCfg.good (g : LineCfg) : Bool :=
  g.rateCode.toNat ≤ 5 && 2 ≤ g.gap.toNat && g.gap.toNat ≤ 32 && 1 ≤ g.probeInterval.toNat
    && 2 ≤ g.faultThreshold.toNat && g.faultThreshold.toNat ≤ 32

/-- LINE_CONFIG (R141). -/
def actLineConfig (tag : Byte) (body : List Byte) (s : State) : State :=
  reply tag .lineConfig s (match body with
    | [line, rate, gap, period, probe, threshold] => do
      let l ← lineCheck line
      require (s.lc l).configurable .wrongState
      let g : LineCfg :=
        { rateCode := rate, gap := gap, roundPeriod := period, probeInterval := probe, faultThreshold := threshold }
      require g.good .badValue
      return ([], s.modLc l (fun c => { c with cfg := g, probeCountdown := probe }))
    | _ => .error .badLength)

/-- The line enters RUNNING with its consecutive-fail count 0, and counts as idle from now (R15, R142, log 13). -/
def enterRunning (l : Line) (s : State) : State :=
  s.modLc l (fun c => { c with state := .running, failCount := 0, gapHeld := false })

/-- LINE_START on a line, by its state (R142). -/
def lineStart (l : Line) (s : State) : Answer :=
  match (s.lc l).state with
  | .disabled => .ok ([], startRound l (enterRunning l s))
  | .stopped => .ok ([], enterRunning l s)
  | .fault => .ok ([], (enterRunning l s).modLineAttn l (fun a => { a with faultReported := false }))
  | .running => .ok ([], s)
  | .stopping => .error .wrongState

/-- LINE_START (R142). -/
def actLineStart (tag : Byte) (body : List Byte) (s : State) : State :=
  reply tag .lineStart s (match body with
    | [line] => do
      let l ← lineCheck line
      lineStart l s
    | _ => .error .badLength)

/-- The line enters STOPPED with no visit in progress; a broadcast window with its head taken gives way to the
probe window (R110, R143). -/
def enterStopped (l : Line) (s : State) : State :=
  s.modLc l (fun c => { c with state := .stopped, deferred := .clear,
                               phase := if c.bcastFrame.isSome then .probe else c.phase })

/-- LINE_STOP on a line: with a visit in progress the request waits (R143). -/
def lineStop (tag : Byte) (l : Line) (s : State) : State :=
  if (s.lc l).state = .running then
    if (s.lc l).visit.isSome then s.modLc l (fun c => { c with state := .stopping, stopTag := some tag })
    else post tag .lineStop .ok [] (enterStopped l s)
  else post tag .lineStop .wrongState [] s

/-- LINE_STOP (R143). -/
def actLineStop (tag : Byte) (body : List Byte) (s : State) : State :=
  match body with
  | [line] =>
    match lineOf line with
    | some l => lineStop tag l s
    | none => post tag .lineStop .badValue [] s
  | _ => post tag .lineStop .badLength [] s

/-- LINE_RESET (R145). -/
def actLineReset (tag : Byte) (body : List Byte) (s : State) : State :=
  reply tag .lineReset s (match body with
    | [line] => do
      let l ← lineCheck line
      return ([], lineResetAct l s)
    | _ => .error .badLength)

/-- LINE_STATUS (R147). -/
def actLineStatus (tag : Byte) (body : List Byte) (s : State) : State :=
  reply tag .lineStatus s (match body with
    | [line] => do
      let l ← lineCheck line
      return (s.lineSnapshot l, s)
    | _ => .error .badLength)

/-- The OK of POLL_NOW: the number of drops in the urgent queue after it (R116). -/
def pollNowOk (l : Line) (s : State) : Answer := .ok ([byteOf (s.lc l).urgent.length], s)

/-- POLL_NOW (R116). -/
def actPollNow (tag : Byte) (body : List Byte) (s : State) : State :=
  reply tag .pollNow s (match body with
    | [slot, gen] => do
      let i ← s.entryCheck slot gen
      let l := (s.drop i).currentLine
      require (s.lc l).state.takesUrgent .lineUnavailable
      require ((s.drop i).state != .retiring) .wrongState
      if (s.lc l).urgent.contains i then pollNowOk l s
      else
        require ((s.lc l).urgent.length < Config.urgentMax) .queueFull
        pollNowOk l (s.modLc l (fun c => c.urgentEnter i))
    | _ => .error .badLength)

end Sys2Proof.Machine
end

