-- ==== Sys2Proof/Machine/MessageRequests.lean ====
section
/-!
DEFINITION. The message requests of the Message Store: MSG_SUBMIT, MSG_FETCH, MSG_RELEASE, MSG_PURGE and
MSG_BROADCAST (chapter 5, R68, R70).
-/

namespace Sys2Proof.Machine

/-! ## MSG_SUBMIT -/

/-- The outbound message that an accepted MSG_SUBMIT makes of a payload (R68). -/
def State.newOutMsg (s : State) (i : Slot) (urgent : Bool) (payload : List Byte) : OutMsg :=
  { recNo := s.nextRecord, id := (s.drop i).nextOutId,
    chain := writeCells s.store.freeCells (segments Config.chainCells payload), urgent := urgent }

/-- The message joins the outbox, and the next outbound id increments (R25, R83). -/
def joinOutbox (i : Slot) (m : OutMsg) (s : State) : State :=
  s.modDrop i (fun d => { d with outbox := outboxInsert d.headLock m d.outbox, nextOutId := d.nextOutId + 1#8 })

/-- An urgent message asks for the drop's urgent entry (R117). -/
def submitEntry (i : Slot) (urgent : Bool) (s : State) : State :=
  let l := (s.drop i).currentLine
  if urgent && (s.lc l).state.takesUrgent then s.modLc l (fun c => c.urgentEnter i) else s

/-- The effects of an accepted MSG_SUBMIT (R68, R96). -/
def submit (i : Slot) (urgent : Bool) (payload : List Byte) (s : State) : State :=
  submitEntry i urgent (takeAway (cellsFor payload.length) 1 (joinOutbox i (s.newOutMsg i urgent payload) s))

/-- MSG_SUBMIT (R96). -/
def actMsgSubmit (tag : Byte) (body : List Byte) (s : State) : State :=
  reply tag .msgSubmit s (match body with
    | slot :: gen :: flags :: payload => do
      let i ← s.entryCheck slot gen
      let d := s.drop i
      require (d.state != .retiring) .wrongState
      require (flags.toNat < 2) .badValue
      require (1 ≤ payload.length && payload.length ≤ Config.messageBytes) .badLength
      require (d.outbox.length < d.outboxLimit.toNat) .queueFull
      require (!s.store.hold) .poolHeld
      require (cellsFor payload.length ≤ s.freeCount && !s.store.freeRecords.isEmpty) .poolExhausted
      return ([d.nextOutId], submit i (flags.getLsbD 0) payload s)
    | _ => .error .badLength)

/-! ## MSG_FETCH and MSG_RELEASE -/

/-- The data of a MSG_FETCH reply (R97, Table 68). -/
def InMsg.fetchBytes (m : InMsg) : List Byte :=
  [m.id.getD 0#8, m.status.code, flagByte m.alertMark, m.segCount, byteOf m.length] ++ m.payload

/-- The fetched flag of the inbox head is set (R97). -/
def markFetched : List InMsg → List InMsg
  | [] => []
  | m :: rest => { m with fetched := true } :: rest

/-- MSG_FETCH (R97). -/
def actMsgFetch (tag : Byte) (body : List Byte) (s : State) : State :=
  reply tag .msgFetch s (match body with
    | [slot, gen] => do
      let i ← s.entryCheck slot gen
      let m ← requireSome (s.drop i).inbox.head? .inboxEmpty
      return (m.fetchBytes, s.modDrop i (fun d => { d with inbox := markFetched d.inbox }))
    | _ => .error .badLength)

/-- The inbox head leaves and is freed, and INBOX_READY is evaluated (R71, R95, R98). -/
def releaseHead (i : Slot) (m : InMsg) (s : State) : State :=
  evalInbox i (freeAll (chainNos m.chain) [m.recNo] (s.modDrop i (fun d => { d with inbox := d.inbox.tail })))

/-- MSG_RELEASE (R98). -/
def actMsgRelease (tag : Byte) (body : List Byte) (s : State) : State :=
  reply tag .msgRelease s (match body with
    | [slot, gen, id] => do
      let i ← s.entryCheck slot gen
      let m ← requireSome (s.drop i).inbox.head? .notFetched
      require (m.fetched && m.id == some id) .notFetched
      return ([], releaseHead i m s)
    | _ => .error .badLength)

/-! ## MSG_PURGE -/

/-- The drop without its inbound messages (R99). -/
def Drop.purgeInbox (d : Drop) : Drop := { d with inbox := [], partialMsg := none }

/-- The drop without its outbound messages; the settle wait is set for a locked head (R87, R99). -/
def Drop.purgeOutbox (d : Drop) : Drop :=
  { d with outbox := [], headLock := false, settleWait := d.settleWait || (d.headLock && !d.link.resyncNeeded),
           link := { d.link with segIndex := 0 } }

/-- A value by a condition. -/
def onlyIf {α : Type} (c : Bool) (l : List α) : List α := if c then l else []

/-- The effects of MSG_PURGE on the selected queues (R99). -/
def purge (i : Slot) (inbound outbound : Bool) (s : State) : State :=
  let d := s.drop i
  let cells := onlyIf inbound d.inboundCells ++ onlyIf outbound d.outboxCells
  let recs := onlyIf inbound d.inboundRecs ++ onlyIf outbound d.outboxRecs
  let d1 := if inbound then d.purgeInbox else d
  let d2 := if outbound then d1.purgeOutbox else d1
  let s1 := freeAll cells recs (s.setDrop i d2)
  let s2 := if inbound then evalInbox i s1 else s1
  if outbound && d.outboxTrigger.toNat < d.outbox.length then raiseOutboxLow i s2 else s2

/-- The selector byte of MSG_PURGE: inbox, outbox (Table 68). -/
def purgeSelector (b : Byte) : Option (Bool × Bool) :=
  if b = 0x01#8 then some (true, false) else if b = 0x02#8 then some (false, true)
  else if b = 0x03#8 then some (true, true) else none

/-- MSG_PURGE (R99). -/
def actMsgPurge (tag : Byte) (body : List Byte) (s : State) : State :=
  reply tag .msgPurge s (match body with
    | [slot, gen, sel] => do
      let i ← s.entryCheck slot gen
      let (inbound, outbound) ← requireSome (purgeSelector sel) .badValue
      let d := s.drop i
      return ([byteOf (if inbound then d.inboundCount else 0), byteOf (if outbound then d.outbox.length else 0)],
        purge i inbound outbound s)
    | _ => .error .badLength)

/-! ## MSG_BROADCAST -/

/-- The line set of MSG_BROADCAST (Table 68). -/
def lineSetOf (b : Byte) : Option (Bool × Bool) :=
  if 1 ≤ b.toNat ∧ b.toNat ≤ 3 then some (b.getLsbD 0, b.getLsbD 1) else none

/-- A check of every selected line. -/
def onSelected (a b : Bool) (f : Line → Bool) : Bool := (!a || f .a) && (!b || f .b)

/-- The effects of an accepted MSG_BROADCAST (R70, R101). -/
def queueBroadcast (a b : Bool) (t : Target) (payload : List Byte) (s : State) : State :=
  let m : Bcast :=
    { recNo := s.nextRecord, cell := { no := s.store.freeCells.headD 0, data := payload }, target := t, onA := a, onB := b }
  takeAway 1 1 (s.setStore { s.store with bcasts := s.store.bcasts ++ [m] })

/-- MSG_BROADCAST (R101). -/
def actMsgBroadcast (tag : Byte) (body : List Byte) (s : State) : State :=
  reply tag .msgBroadcast s (match body with
    | set :: target :: payload => do
      let (a, b) ← requireSome (lineSetOf set) .badValue
      let t ← requireSome (targetOf target) .badValue
      require (1 ≤ payload.length && payload.length ≤ Config.cellBytes) .badLength
      require (onSelected a b (fun l => (s.lc l).state.takesUrgent)) .lineUnavailable
      require (onSelected a b (fun l => (s.bcastQueue l).length < Config.broadcastMax)) .queueFull
      require (!s.store.hold) .poolHeld
      require (!s.store.freeCells.isEmpty && !s.store.freeRecords.isEmpty) .poolExhausted
      return ([], queueBroadcast a b t payload s)
    | _ => .error .badLength)

end Sys2Proof.Machine
end

