-- ==== Sys2Proof/Machine/PoolRequests.lean ====
section
/-!
DEFINITION. POOL_STATUS (R80) and POOL_MARKS (R81).
-/

namespace Sys2Proof.Machine

/-- POOL_STATUS (R80). -/
def actPoolStatus (tag : Byte) (body : List Byte) (s : State) : State :=
  reply tag .poolStatus s (do
    require body.isEmpty .badLength
    return (s.poolSnapshot, s))

/-- The three marks that POOL_MARKS accepts (R73, R81). -/
def marksGood (h r l : Half) : Bool := h.toNat ≤ 511 && r.toNat ≤ 512 && l.toNat ≤ 512 && h.toNat < r.toNat

/-- The marks are replaced, and the hold state and the low state evaluated on them (R81). -/
def setMarks (h r l : Half) (s : State) : State :=
  evalPool (s.setStore { s.store with holdMark := h, resumeMark := r, lowMark := l })

/-- POOL_MARKS (R81). -/
def actPoolMarks (tag : Byte) (body : List Byte) (s : State) : State :=
  reply tag .poolMarks s (match body with
    | [hh, hl, rh, rl, lh, ll] => do
      require (marksGood (halfOf hh hl) (halfOf rh rl) (halfOf lh ll)) .badValue
      let s' := setMarks (halfOf hh hl) (halfOf rh rl) (halfOf lh ll) s
      return ([flagByte s'.store.hold], s')
    | _ => .error .badLength)

end Sys2Proof.Machine
end

