-- ==== Sys2Proof/Machine/HostLink.lean ====
section
/-!
DEFINITION. The Host Link Interface (chapter 9): the framer's bytes, rejection, admission and the owner of each kind,
the end of a transmission, and the device reset.
-/

namespace Sys2Proof.Machine

/-! ## Admission (R160) -/

/-- The owner's act on an admitted request (Table 60). -/
def ownerAct (k : ReqKind) (tag : Byte) (body : List Byte) (s : State) : State :=
  match k with
  | .deviceInfo => actDeviceInfo tag body s
  | .deviceRestart => actDeviceRestart tag body s
  | .cancel => actCancel tag body s
  | .dropCreate => actDropCreate tag body s
  | .dropModify => actDropModify tag body s
  | .dropQuery => actDropQuery tag body s
  | .dropScan => actDropScan tag body s
  | .dropMove => actDropMove tag body s
  | .dropRetire => actDropRetire tag body s
  | .msgSubmit => actMsgSubmit tag body s
  | .msgFetch => actMsgFetch tag body s
  | .msgRelease => actMsgRelease tag body s
  | .msgPurge => actMsgPurge tag body s
  | .msgBroadcast => actMsgBroadcast tag body s
  | .poolStatus => actPoolStatus tag body s
  | .poolMarks => actPoolMarks tag body s
  | .lineConfig => actLineConfig tag body s
  | .lineStart => actLineStart tag body s
  | .lineStop => actLineStop tag body s
  | .lineReset => actLineReset tag body s
  | .lineStatus => actLineStatus tag body s
  | .pollNow => actPollNow tag body s
  | .attnMask => actAttnMask tag body s
  | .attnPeek => actAttnPeek tag body s

/-- A tag is that of an outstanding request (R160). -/
def Hli.tagInUse (h : Hli) (tag : Byte) : Bool := h.outstanding.any (fun o => o.tag == tag)

/-- The request enters the table of outstanding requests in phase WORKING (R160). -/
def admitEntry (tag : Byte) (k : ReqKind) (s : State) : State :=
  s.setHli { s.hli with outstanding := s.hli.outstanding ++ [{ tag := tag, kind := k.byte, phase := .working }] }

/-- Admission of a valid record (R160). -/
def admitRequest (tag : Byte) (k : ReqKind) (body : List Byte) (s : State) : State :=
  if s.hli.tagInUse tag then immediate tag (replyKind k.byte) .tagInUse s
  else if Config.outstandingMax ≤ s.hli.outstanding.length then immediate tag (replyKind k.byte) .tableFull s
  else ownerAct k tag body (admitEntry tag k s)

/-! ## Records from the framer (R157, R159, R166) -/

/-- The kind of a rejection (R159). -/
def rejectionKind : Byte := 0xFF#8

/-- The rejection checks of R159 on a whole record: the code of the first that fails. -/
def rejectionOf (tag kind : Byte) (crcGood : Bool) : Except ReplyCode ReqKind :=
  if crcGood = false then .error .check
  else match ReqKind.ofByte kind with
  | none => .error .badKind
  | some k => if tag = 0#8 then .error .badValue else .ok k

/-- A record handed on by the framer is rejected, or goes to admission (R159, R160). -/
def judgeRecord (r : Handed) (s : State) : State :=
  match r with
  | .badLen tag => immediate tag rejectionKind .badLength s
  | .whole tag kind body crcGood =>
    match rejectionOf tag kind crcGood with
    | .error code => immediate tag rejectionKind code s
    | .ok k => admitRequest tag k body s

/-- A record handed on by the framer: discarded while a restart is pending, else judged; the transmitter then
chooses (R163, R166). -/
def handOn (r : Handed) (s : State) : State := if s.hli.restartPending then s else startTx (judgeRecord r s)

/-- A record that may have been handed on with the last byte (R157). -/
def handOnSome (r : Option Handed) (s : State) : State :=
  match r with
  | none => s
  | some r => handOn r s

/-- A byte taken from HRXD. In reset, and while HRXD has not returned high, no byte is taken (R156, R158, R167). -/
def takeHostByte (s : State) (b : Byte) : State :=
  if s.hli.inReset || s.hli.hrxdLow then s
  else
    let step := s.hli.framer.take b
    handOnSome step.2 (s.setHli { s.hli with framer := step.1 })

/-- Bytes taken from HRXD in turn (R157). -/
def takeHostBytes (bytes : List Byte) (s : State) : State := bytes.foldl takeHostByte s

/-- The receive framer enters HUNT, and a partial record is discarded (R158). -/
def discardPartial (s : State) : State :=
  if s.hli.inReset then s else s.setHli { s.hli with framer := .hunt }

/-- HRXD stays low: no start bit is taken until it has returned high (R156, R158). -/
def holdHrxd (s : State) : State :=
  if s.hli.inReset then s else s.setHli { s.hli with hrxdLow := true }

/-- HRXD has returned high (R156, R158). -/
def releaseHrxd (s : State) : State :=
  if s.hli.inReset then s else s.setHli { s.hli with hrxdLow := false }

/-! ## The transmitter and HRDY (R163) -/

/-- HRDY is asserted, and the idle transmitter chooses anew (R163). -/
def assertHrdy (s : State) : State := startTx (s.setHli { s.hli with hrdy := true })

/-- HRDY is deasserted (R163). -/
def deassertHrdy (s : State) : State := s.setHli { s.hli with hrdy := false }

/-! ## Device reset (R166, R167) -/

/-- Every block takes its reset values and the rate is sampled from the straps. The queue of commands, the count
of time, the level on HRDY and the count of strap readings are not the part's own state (R167, log 3, log 6, log 12). -/
def resetBlocks (straps : Straps) (timebase : Nat) (s : State) : State :=
  { State.reset with
    pending := s.pending
    timebase := timebase
    hli := { Hli.reset with
      hostRate := straps, straps := straps, hrdy := s.hli.hrdy, strapReads := s.hli.strapReads } }

/-- The device reset, after which the transmitter may start RESTARTED at once (R167). -/
def deviceReset (straps : Straps) (s : State) : State := startTx (resetBlocks straps s.timebase s)

/-- Power applied: as on release of RESETN, with the count of moments at its start (R167, log 22). -/
def powerUp (straps : Straps) (s : State) : State := startTx (resetBlocks straps 0 s)

/-- RESETN goes low: the record in transmission stops, and the visits and BCAST frames are cut off (R167, R110,
R136). -/
def enterReset (s : State) : State :=
  let s1 := cutLine .b (cutLine .a s)
  s1.setHli { s1.hli with inReset := true, tx := none }

/-- The entry of a request leaves the table (R160, R163). -/
def removeEntry (tag : Byte) (t : List Outstanding) : List Outstanding := t.filter (fun o => o.tag != tag)

/-- What the end of a record frees (R161, R163). -/
def freeTx (r : OutRecord) (h : Hli) : Hli :=
  match r.origin with
  | .notice => { h with tx := none }
  | .immediate => { h with tx := none, immediateUsed := false }
  | .request => { h with tx := none, outstanding := removeEntry r.tag h.outstanding }
  | .restart => { h with tx := none, outstanding := removeEntry r.tag h.outstanding }

/-- The strap levels that the reset of a DEVICE_RESTART samples: a free value, the next of its readings (R156, R167,
log 12). -/
def Hli.strapsNow (h : Hli) : Straps :=
  let levels := Config.strapLevels h.strapReads
  { rate1 := levels.getLsbD 1, rate0 := levels.getLsbD 0 }

/-- The reset of a DEVICE_RESTART, with the straps as they stand when it ends (R156, R166, R167). -/
def restart (s : State) : State :=
  deviceReset s.hli.strapsNow (s.setHli { s.hli with strapReads := s.hli.strapReads + 1 })

/-- The last byte of the record in transmission has been sent: the reset of a DEVICE_RESTART follows its OK, and any
other record frees what it held before the transmitter chooses again (R163, R166). -/
def endRecord (s : State) : State :=
  match s.hli.tx with
  | none => s
  | some r => if r.origin = .restart then restart s else startTx (s.setHli (freeTx r s.hli))

end Sys2Proof.Machine
end

