-- ==== Sys2Proof/Machine/HostEvents.lean ====
section
/-!
DEFINITION. The meanings of the events of the host link and of the reset pins (R156 to R163, R167).
-/

namespace Sys2Proof.Machine

/-- REJECTION: a host record that R159 rejects arrives. -/
def execRejection (raw : List Byte) (s : State) : Host.Outcome State Fault Refusal :=
  .next (takeHostBytes raw s)

/-- INTER_BYTE_GAP_EXPIRY: bytes of a record arrive, then 2 ms pass with no start bit (R158). -/
def execInterByteGapExpiry (taken : List Byte) (s : State) : Host.Outcome State Fault Refusal :=
  .next (discardPartial (takeHostBytes taken s))

/-- HOST_STOP_BIT_ERROR: bytes of a record arrive, then a byte with a stop-bit error (R156, R158). -/
def execHostStopBitError (taken : List Byte) (s : State) : Host.Outcome State Fault Refusal :=
  .next (holdHrxd (discardPartial (takeHostBytes taken s)))

/-- HOST_LINK_BREAK: bytes of a record arrive, then HRXD is held low for 10 ms (R158). -/
def execHostLinkBreak (taken : List Byte) (s : State) : Host.Outcome State Fault Refusal :=
  .next (holdHrxd (discardPartial (takeHostBytes taken s)))

/-- HRDY_ASSERTED (R163). -/
def execHrdyAsserted (s : State) : Host.Outcome State Fault Refusal :=
  .next (assertHrdy s)

/-- HRDY_DEASSERTED (R163). -/
def execHrdyDeasserted (s : State) : Host.Outcome State Fault Refusal :=
  .next (deassertHrdy s)

/-- RECORD_TRANSMISSION_END (R163, R166, R167). -/
def execRecordTransmissionEnd (s : State) : Host.Outcome State Fault Refusal :=
  .next (endRecord s)

/-- RESETN_ASSERTED (R167). -/
def execResetnAsserted (s : State) : Host.Outcome State Fault Refusal :=
  .next (enterReset s)

/-- DEVICE_RESET: the end of a reset (R167). -/
def execDeviceReset (straps : Straps) (s : State) : Host.Outcome State Fault Refusal :=
  .next (deviceReset straps s)

/-- POWER_ON (R167). -/
def execPowerOn (straps : Straps) (s : State) : Host.Outcome State Fault Refusal :=
  .next (powerUp straps s)

/-- HRXD_RETURNS_HIGH (R156, R158). -/
def execHrxdReturnsHigh (s : State) : Host.Outcome State Fault Refusal :=
  .next (releaseHrxd s)

end Sys2Proof.Machine
end

