-- ==== Sys2Proof/Machine/HostRequests.lean ====
section
/-!
DEFINITION. The meanings of the host requests: the bytes of a request's record arrive on HRXD and pass the framer, the
rejection checks and admission on their way to its owner (R157 to R160, log 1).
-/

namespace Sys2Proof.Machine

/-- A whole host record arrives (R157). -/
def hostRecord (k : ReqKind) (tag : Byte) (body : List Byte) (s : State) : State :=
  takeHostBytes (recordBytes tag k.byte body) s

/-- DEVICE_INFO (R165). -/
def execDeviceInfo (tag : Byte) (body : List Byte) (s : State) : Host.Outcome State Fault Refusal :=
  .next (hostRecord .deviceInfo tag body s)

/-- DEVICE_RESTART (R166). -/
def execDeviceRestart (tag : Byte) (body : List Byte) (s : State) : Host.Outcome State Fault Refusal :=
  .next (hostRecord .deviceRestart tag body s)

/-- CANCEL (R59 to R61). -/
def execCancel (tag : Byte) (body : List Byte) (s : State) : Host.Outcome State Fault Refusal :=
  .next (hostRecord .cancel tag body s)

/-- DROP_CREATE (R35 to R37). -/
def execDropCreate (tag : Byte) (body : List Byte) (s : State) : Host.Outcome State Fault Refusal :=
  .next (hostRecord .dropCreate tag body s)

/-- DROP_MODIFY (R38, R39). -/
def execDropModify (tag : Byte) (body : List Byte) (s : State) : Host.Outcome State Fault Refusal :=
  .next (hostRecord .dropModify tag body s)

/-- DROP_QUERY (R42). -/
def execDropQuery (tag : Byte) (body : List Byte) (s : State) : Host.Outcome State Fault Refusal :=
  .next (hostRecord .dropQuery tag body s)

/-- DROP_SCAN (R43). -/
def execDropScan (tag : Byte) (body : List Byte) (s : State) : Host.Outcome State Fault Refusal :=
  .next (hostRecord .dropScan tag body s)

/-- DROP_MOVE (R44 to R52). -/
def execDropMove (tag : Byte) (body : List Byte) (s : State) : Host.Outcome State Fault Refusal :=
  .next (hostRecord .dropMove tag body s)

/-- DROP_RETIRE (R54 to R58). -/
def execDropRetire (tag : Byte) (body : List Byte) (s : State) : Host.Outcome State Fault Refusal :=
  .next (hostRecord .dropRetire tag body s)

/-- MSG_SUBMIT (R96). -/
def execMsgSubmit (tag : Byte) (body : List Byte) (s : State) : Host.Outcome State Fault Refusal :=
  .next (hostRecord .msgSubmit tag body s)

/-- MSG_FETCH (R97). -/
def execMsgFetch (tag : Byte) (body : List Byte) (s : State) : Host.Outcome State Fault Refusal :=
  .next (hostRecord .msgFetch tag body s)

/-- MSG_RELEASE (R98). -/
def execMsgRelease (tag : Byte) (body : List Byte) (s : State) : Host.Outcome State Fault Refusal :=
  .next (hostRecord .msgRelease tag body s)

/-- MSG_PURGE (R99). -/
def execMsgPurge (tag : Byte) (body : List Byte) (s : State) : Host.Outcome State Fault Refusal :=
  .next (hostRecord .msgPurge tag body s)

/-- MSG_BROADCAST (R101). -/
def execMsgBroadcast (tag : Byte) (body : List Byte) (s : State) : Host.Outcome State Fault Refusal :=
  .next (hostRecord .msgBroadcast tag body s)

/-- POOL_STATUS (R80). -/
def execPoolStatus (tag : Byte) (body : List Byte) (s : State) : Host.Outcome State Fault Refusal :=
  .next (hostRecord .poolStatus tag body s)

/-- POOL_MARKS (R81). -/
def execPoolMarks (tag : Byte) (body : List Byte) (s : State) : Host.Outcome State Fault Refusal :=
  .next (hostRecord .poolMarks tag body s)

/-- LINE_CONFIG (R141). -/
def execLineConfig (tag : Byte) (body : List Byte) (s : State) : Host.Outcome State Fault Refusal :=
  .next (hostRecord .lineConfig tag body s)

/-- LINE_START (R142). -/
def execLineStart (tag : Byte) (body : List Byte) (s : State) : Host.Outcome State Fault Refusal :=
  .next (hostRecord .lineStart tag body s)

/-- LINE_STOP (R143). -/
def execLineStop (tag : Byte) (body : List Byte) (s : State) : Host.Outcome State Fault Refusal :=
  .next (hostRecord .lineStop tag body s)

/-- LINE_RESET (R145, R146). -/
def execLineReset (tag : Byte) (body : List Byte) (s : State) : Host.Outcome State Fault Refusal :=
  .next (hostRecord .lineReset tag body s)

/-- LINE_STATUS (R147). -/
def execLineStatus (tag : Byte) (body : List Byte) (s : State) : Host.Outcome State Fault Refusal :=
  .next (hostRecord .lineStatus tag body s)

/-- POLL_NOW (R116). -/
def execPollNow (tag : Byte) (body : List Byte) (s : State) : Host.Outcome State Fault Refusal :=
  .next (hostRecord .pollNow tag body s)

/-- ATTN_MASK (R177). -/
def execAttnMask (tag : Byte) (body : List Byte) (s : State) : Host.Outcome State Fault Refusal :=
  .next (hostRecord .attnMask tag body s)

/-- ATTN_PEEK (R176). -/
def execAttnPeek (tag : Byte) (body : List Byte) (s : State) : Host.Outcome State Fault Refusal :=
  .next (hostRecord .attnPeek tag body s)

end Sys2Proof.Machine
end

