-- ==== Sys2Proof/Machine/LineEvents.lean ====
section
/-!
DEFINITION. The meanings of the events of the field lines (chapters 6 and 7, R15 to R17).
-/

namespace Sys2Proof.Machine

/-- An event of a field line that makes nothing to send on the host link. In reset it has no effect (R167, log 15). -/
def quietEvent (act : State → State) (s : State) : State := if s.hli.inReset then s else act s

/-- An event of a field line that may make a reply or a notice ready: the transmitter then chooses (R163, R172). In
reset it has no effect (R167, log 15). -/
def loudEvent (act : State → State) (s : State) : State := if s.hli.inReset then s else startTx (act s)

/-- VISIT_START (R109 to R114). -/
def execVisitStart (line : Line) (s : State) : Host.Outcome State Fault Refusal :=
  .next (quietEvent (visitStart line) s)

/-- TURNAROUND_GAP_ELAPSED (R15, R124). -/
def execTurnaroundGapElapsed (line : Line) (s : State) : Host.Outcome State Fault Refusal :=
  .next (quietEvent (turnaroundGapElapsed line) s)

/-- GAP_WAIT_LIMIT_EXPIRY (R15). -/
def execGapWaitLimitExpiry (line : Line) (s : State) : Host.Outcome State Fault Refusal :=
  .next (quietEvent (gapWaitLimitExpiry line) s)

/-- FRAME_SENT (R16, R124). -/
def execFrameSent (line : Line) (s : State) : Host.Outcome State Fault Refusal :=
  .next (quietEvent (frameSent line) s)

/-- REPLY_TIMEOUT (R16, R17, R125). -/
def execReplyTimeout (line : Line) (s : State) : Host.Outcome State Fault Refusal :=
  .next (loudEvent (replyTimeout line) s)

/-- INTRA_FRAME_GAP_EXPIRY (R16, R17, R125). -/
def execIntraFrameGapExpiry (line : Line) (s : State) : Host.Outcome State Fault Refusal :=
  .next (loudEvent (intraFrameGapExpiry line) s)

/-- FIELD_CHARACTER_RECEIVED (R1, R16, R17). -/
def execFieldCharacterReceived (line : Line) (ch : FieldChar) (s : State) : Host.Outcome State Fault Refusal :=
  .next (loudEvent (fieldChar line ch) s)

/-- REPLY_FRAME_RECEIVED (R16, R17, R133). -/
def execReplyFrameReceived (line : Line) (chars : List FieldChar) (s : State) : Host.Outcome State Fault Refusal :=
  .next (loudEvent (replyFrame line chars) s)

/-- BROADCAST_WINDOW (R102, R110). -/
def execBroadcastWindow (line : Line) (s : State) : Host.Outcome State Fault Refusal :=
  .next (loudEvent (broadcastWindow line) s)

/-- BCAST_FRAME_END (R110). -/
def execBcastFrameEnd (line : Line) (s : State) : Host.Outcome State Fault Refusal :=
  .next (quietEvent (bcastFrameEnd line) s)

/-- ROUND_PERIOD_ELAPSED (R112). -/
def execRoundPeriodElapsed (line : Line) (s : State) : Host.Outcome State Fault Refusal :=
  .next (quietEvent (roundPeriodElapsed line) s)

/-- FIELD_RECEIVE_INPUT_RETURNS_HIGH (R1, R15). -/
def execFieldReceiveInputReturnsHigh (line : Line) (s : State) : Host.Outcome State Fault Refusal :=
  .next (quietEvent (fieldInputHigh line) s)

end Sys2Proof.Machine
end

