-- ==== Sys2Proof/Machine/Dispatch.lean ====
section
/-!
DEFINITION. The effect of each command on everything but the queue: one arm per constructor of `Instr`, one meaning per arm.
-/

namespace Sys2Proof.Machine

def exec (i : Instr) (s : State) : Host.Outcome State Fault Refusal :=
  match i with
  | .deviceInfo tag body => Sys2Proof.Machine.execDeviceInfo tag body s
  | .deviceRestart tag body => Sys2Proof.Machine.execDeviceRestart tag body s
  | .cancel tag body => Sys2Proof.Machine.execCancel tag body s
  | .dropCreate tag body => Sys2Proof.Machine.execDropCreate tag body s
  | .dropModify tag body => Sys2Proof.Machine.execDropModify tag body s
  | .dropQuery tag body => Sys2Proof.Machine.execDropQuery tag body s
  | .dropScan tag body => Sys2Proof.Machine.execDropScan tag body s
  | .dropMove tag body => Sys2Proof.Machine.execDropMove tag body s
  | .dropRetire tag body => Sys2Proof.Machine.execDropRetire tag body s
  | .msgSubmit tag body => Sys2Proof.Machine.execMsgSubmit tag body s
  | .msgFetch tag body => Sys2Proof.Machine.execMsgFetch tag body s
  | .msgRelease tag body => Sys2Proof.Machine.execMsgRelease tag body s
  | .msgPurge tag body => Sys2Proof.Machine.execMsgPurge tag body s
  | .msgBroadcast tag body => Sys2Proof.Machine.execMsgBroadcast tag body s
  | .poolStatus tag body => Sys2Proof.Machine.execPoolStatus tag body s
  | .poolMarks tag body => Sys2Proof.Machine.execPoolMarks tag body s
  | .lineConfig tag body => Sys2Proof.Machine.execLineConfig tag body s
  | .lineStart tag body => Sys2Proof.Machine.execLineStart tag body s
  | .lineStop tag body => Sys2Proof.Machine.execLineStop tag body s
  | .lineReset tag body => Sys2Proof.Machine.execLineReset tag body s
  | .lineStatus tag body => Sys2Proof.Machine.execLineStatus tag body s
  | .pollNow tag body => Sys2Proof.Machine.execPollNow tag body s
  | .attnMask tag body => Sys2Proof.Machine.execAttnMask tag body s
  | .attnPeek tag body => Sys2Proof.Machine.execAttnPeek tag body s
  | .rejection raw => Sys2Proof.Machine.execRejection raw s
  | .interByteGapExpiry taken => Sys2Proof.Machine.execInterByteGapExpiry taken s
  | .hostStopBitError taken => Sys2Proof.Machine.execHostStopBitError taken s
  | .hostLinkBreak taken => Sys2Proof.Machine.execHostLinkBreak taken s
  | .hrdyAsserted => Sys2Proof.Machine.execHrdyAsserted s
  | .hrdyDeasserted => Sys2Proof.Machine.execHrdyDeasserted s
  | .recordTransmissionEnd => Sys2Proof.Machine.execRecordTransmissionEnd s
  | .resetnAsserted => Sys2Proof.Machine.execResetnAsserted s
  | .deviceReset straps => Sys2Proof.Machine.execDeviceReset straps s
  | .powerOn straps => Sys2Proof.Machine.execPowerOn straps s
  | .visitStart line => Sys2Proof.Machine.execVisitStart line s
  | .turnaroundGapElapsed line => Sys2Proof.Machine.execTurnaroundGapElapsed line s
  | .gapWaitLimitExpiry line => Sys2Proof.Machine.execGapWaitLimitExpiry line s
  | .frameSent line => Sys2Proof.Machine.execFrameSent line s
  | .replyTimeout line => Sys2Proof.Machine.execReplyTimeout line s
  | .intraFrameGapExpiry line => Sys2Proof.Machine.execIntraFrameGapExpiry line s
  | .fieldCharacterReceived line ch => Sys2Proof.Machine.execFieldCharacterReceived line ch s
  | .replyFrameReceived line chars => Sys2Proof.Machine.execReplyFrameReceived line chars s
  | .broadcastWindow line => Sys2Proof.Machine.execBroadcastWindow line s
  | .bcastFrameEnd line => Sys2Proof.Machine.execBcastFrameEnd line s
  | .roundPeriodElapsed line => Sys2Proof.Machine.execRoundPeriodElapsed line s
  | .fieldReceiveInputReturnsHigh line => Sys2Proof.Machine.execFieldReceiveInputReturnsHigh line s
  | .hrxdReturnsHigh => Sys2Proof.Machine.execHrxdReturnsHigh s

end Sys2Proof.Machine
end

