-- ==== Sys2Proof/Safety.lean ====
section
/-!
DEFINITION. The properties of a state that the spec says hold at every moment, as invariants of a step.
-/

namespace Sys2Proof.Machine

/-! ## Pool marks and hold state (R73, R74) -/

/-- The pool marks stand in the ranges and the order of R73. -/
def Store.marksOrdered (st : Store) : Prop :=
  st.holdMark.toNat < st.resumeMark.toNat ∧ st.resumeMark.toNat ≤ Config.cells ∧ st.lowMark.toNat ≤ Config.cells

/-- The pool is in HOLD whenever the free count is at or below the hold mark, and not in HOLD whenever it is at or
above the resume mark (R74). -/
def Store.holdRule (st : Store) : Prop :=
  (st.freeCells.length ≤ st.holdMark.toNat → st.hold = true) ∧
    (st.resumeMark.toNat ≤ st.freeCells.length → st.hold = false)

/-- The rule of the pool marks and the hold state (R73, R74). -/
def PoolRule (s : State) : Prop := s.store.marksOrdered ∧ s.store.holdRule

/-! ## Outstanding requests (R160) -/

/-- At most 4 requests are outstanding, and their tags are distinct and non-zero (R160). -/
def OutstandingRule (s : State) : Prop :=
  s.hli.outstanding.length ≤ Config.outstandingMax ∧ (s.hli.outstanding.map Outstanding.tag).Nodup ∧
    0#8 ∉ s.hli.outstanding.map Outstanding.tag

/-! ## Urgent queues (R106) -/

/-- Each urgent queue holds at most 8 slots without duplicates (R106). -/
def UrgentRule (s : State) : Prop :=
  ∀ l : Line, (s.lc l).urgent.length ≤ Config.urgentMax ∧ (s.lc l).urgent.Nodup

/-! ## The store (R20, R62, R64) -/

/-- The cells in the chains of a drop's messages. -/
def Drop.chainCellNos (d : Drop) : List Nat := d.inboundCells ++ d.outboxCells

/-- The records of a drop's messages. -/
def Drop.messageRecs (d : Drop) : List Nat := d.inboundRecs ++ d.outboxRecs

/-- Every cell: the free ones, those of the drops' messages and those of the broadcasts. -/
def State.allCells (s : State) : List Nat :=
  s.store.freeCells ++ allSlots.flatMap (fun i => (s.drop i).chainCellNos) ++ s.store.bcasts.map (fun b => b.cell.no)

/-- Every record: the free ones, those of the drops' messages and those of the broadcasts. -/
def State.allRecords (s : State) : List Nat :=
  s.store.freeRecords ++ allSlots.flatMap (fun i => (s.drop i).messageRecs) ++ s.store.bcasts.map Bcast.recNo

/-- A drop that is VACANT or RETIRING holds no message (R20, R56). -/
def Drop.emptyUnlessLive (d : Drop) : Prop :=
  d.state.live = true ∨ (d.outbox = [] ∧ d.inbox = [] ∧ d.partialMsg = none)

/-- Each of the 512 cells and of the 256 records is either free or in exactly one message, entries that do not
live hold no message, and every broadcast waits on some line (R20, R56, R62, R64, R70). -/
def StoreConserved (s : State) : Prop :=
  s.allCells.Perm (List.range Config.cells) ∧ s.allRecords.Perm (List.range Config.records) ∧
    (∀ i : Slot, (s.drop i).emptyUnlessLive) ∧ ∀ b ∈ s.store.bcasts, b.onA = true ∨ b.onB = true

/-! ## Places (R20, R33) -/

/-- No place is in use or reserved by two entries, and a VACANT entry has no pending move (R20, R33). -/
def PlacesUnique (s : State) : Prop :=
  (∀ (i j : Slot) (l : Line) (a : Byte), i ≠ j → (s.drop i).holds l a = true → (s.drop j).holds l a = false) ∧
    ∀ i : Slot, (s.drop i).state = .vacant → (s.drop i).pendingMove = none

/-! ## What statements about the host link say -/

/-- The records on their way to the host: the one in transmission, then the ready-reply queue in order (R162, R163). -/
def Hli.records (h : Hli) : List OutRecord := h.tx.toList ++ h.ready

/-- The tags and kinds of the outstanding requests (R160). -/
def Hli.requests (h : Hli) : List (Byte × Byte) := h.outstanding.map (fun o => (o.tag, o.kind))

/-- The host link takes records: not in reset, HRXD high, the framer in HUNT, no restart pending (R157, R166, R167). -/
def State.listens (s : State) : Bool :=
  !s.hli.inReset && !s.hli.hrxdLow && s.hli.framer == .hunt && !s.hli.restartPending

/-- A request record with this tag and body is valid and is admitted (R157, R159, R160). -/
def State.admits (s : State) (tag : Byte) (body : List Byte) : Bool :=
  s.listens && tag != 0#8 && body.length ≤ 248 && s.hli.outstanding.all (fun o => o.tag != tag)
    && s.hli.outstanding.length < 4

/-- From `s` to `t` one request was admitted and answered: one reply, with the request's tag, its kind plus 80h, the
code and the data, joined the end of the records; the request is outstanding; and nothing else of the host link
changed (R160, R162, R164). -/
def Answers (s t : State) (tag : Byte) (k : ReqKind) (code : ReplyCode) (data : List Byte) : Prop :=
  t.hli.records =
      s.hli.records ++ [{ tag := tag, kind := k.byte + 0x80#8, body := code.byte :: data, origin := .request }] ∧
    t.hli.requests = s.hli.requests ++ [(tag, k.byte)] ∧
    { t.hli with tx := s.hli.tx, ready := s.hli.ready, outstanding := s.hli.outstanding } = s.hli

/-- From `s` to `t` one request was admitted and refused with a code: its reply, and nothing else (R164). -/
def TurnedAway (s t : State) (tag : Byte) (k : ReqKind) (code : ReplyCode) : Prop :=
  Answers s t tag k code [] ∧ t.setHli s.hli = s

/-- The command of a request kind. -/
def ReqKind.command (k : ReqKind) (tag : Byte) (body : List Byte) : Instr :=
  match k with
  | .deviceInfo => .deviceInfo tag body
  | .deviceRestart => .deviceRestart tag body
  | .cancel => .cancel tag body
  | .dropCreate => .dropCreate tag body
  | .dropModify => .dropModify tag body
  | .dropQuery => .dropQuery tag body
  | .dropScan => .dropScan tag body
  | .dropMove => .dropMove tag body
  | .dropRetire => .dropRetire tag body
  | .msgSubmit => .msgSubmit tag body
  | .msgFetch => .msgFetch tag body
  | .msgRelease => .msgRelease tag body
  | .msgPurge => .msgPurge tag body
  | .msgBroadcast => .msgBroadcast tag body
  | .poolStatus => .poolStatus tag body
  | .poolMarks => .poolMarks tag body
  | .lineConfig => .lineConfig tag body
  | .lineStart => .lineStart tag body
  | .lineStop => .lineStop tag body
  | .lineReset => .lineReset tag body
  | .lineStatus => .lineStatus tag body
  | .pollNow => .pollNow tag body
  | .attnMask => .attnMask tag body
  | .attnPeek => .attnPeek tag body

/-! ## What statements about drops and lines say -/

/-- The pair of a slot and a generation quotes an entry that is not VACANT (R22). -/
def State.quotes (s : State) (slot gen : Byte) (i : Slot) : Prop :=
  slot.toNat = i.val ∧ (s.drop i).state ≠ .vacant ∧ (s.drop i).generation = gen

/-- A character as the part sends it, and as one arrives without error: even parity and a high stop bit (R1). -/
def cleanChar (b : Byte) : FieldChar :=
  { data := b, stop := true,
    parity := b.getLsbD 0 ^^ b.getLsbD 1 ^^ b.getLsbD 2 ^^ b.getLsbD 3 ^^ b.getLsbD 4 ^^ b.getLsbD 5 ^^ b.getLsbD 6
      ^^ b.getLsbD 7 }

/-- A visit awaits a reply on a line, with nothing of it received (R16). -/
def State.awaits (s : State) (l : Line) (v : Visit) : Prop :=
  s.hli.inReset = false ∧ (s.lc l).visit = some v ∧ v.phase = .reply ∧ (s.lc l).receiver = .awaitingReply ∧
    (s.lc l).rxLow = false ∧ (s.lc l).bcastFrame = none

/-- The bytes of a reply that the receiver holds: awaited while there is none (R16). -/
def Receiver.holding (got : List Byte) : Receiver := if got = [] then .awaitingReply else .receiving got

/-- A visit awaits the rest of a reply on a line, with some bytes of it received (R16). -/
def State.receives (s : State) (l : Line) (v : Visit) (got : List Byte) : Prop :=
  s.hli.inReset = false ∧ (s.lc l).visit = some v ∧ v.phase = .reply ∧ (s.lc l).receiver = .holding got ∧
    (s.lc l).rxLow = false ∧ (s.lc l).bcastFrame = none

/-- The state in which a character after those bytes of a reply has been seen and not yet judged: a low stop bit holds the
input low, and the gap measurement with it (R1, R15, log 13). -/
def State.heard (s : State) (l : Line) (got : List Byte) (ch : FieldChar) : State :=
  let c := s.lc l
  s.setLc l { c with
    receiver := .holding got, rxLow := if ch.stop then c.rxLow else true, gapHeld := if ch.stop then c.gapHeld else true }

/-- The CTRL byte of a reply has a kind that Table 12 allows for the frame sent (R8, Table 11). -/
def MasterKind.mayHear (sent : MasterKind) (ctrl : Byte) : Bool :=
  let kind := ctrl.toNat / 16
  match sent with
  | .poll => kind == 0x8 || kind == 0x9 || kind == 0xC
  | .deliver => kind == 0x8 || kind == 0x9 || kind == 0xA || kind == 0xC
  | .resync => kind == 0xB

/-- The SEGF byte of a reply agrees with its CTRL byte: a length of 1 to 32 in DATA, and FIRST, LAST and length 0 in any
other kind (R17). -/
def segfAgrees (ctrl segf : Byte) : Bool :=
  if ctrl.toNat / 16 = 0x8 then 1 ≤ segf.toNat % 64 && segf.toNat % 64 ≤ 32 else segf == 0x00#8

/-- The bytes of a reply so far have passed the address test, the kind test and the length and flag tests of R17. -/
def Visit.passes (v : Visit) (bytes : List Byte) : Bool :=
  match bytes with
  | [] => true
  | [addr] => addr == v.address
  | [addr, ctrl] => addr == v.address && v.kind.mayHear ctrl
  | addr :: ctrl :: segf :: _ => addr == v.address && v.kind.mayHear ctrl && segfAgrees ctrl segf

/-- The bytes of a reply by the length it should have, once its third byte gives it: ADDR, CTRL, SEGF, payload and two CRC
bytes (Table 8). -/
def replyLength (bytes : List Byte) : Option Nat := (bytes[2]?).map (fun segf => 5 + segf.toNat % 64)

/-- The bytes of a reply so far have passed their tests, and more of it is to come (R16, R17). -/
def Visit.expects (v : Visit) (got : List Byte) : Prop :=
  v.passes got = true ∧ ∀ n, replyLength got = some n → got.length < n

/-- The last two bytes of a frame are the CRC of those before them, high byte first (R4). -/
def crcCloses (bytes : List Byte) : Prop :=
  ∃ body, bytes = body ++ [hiByte (crc16 body), loByte (crc16 body)]

/-- A character of a reply, after the bytes received, fails the attempt (R17): a parity or stop-bit error; the address, kind
or length and flag test of its byte; or the CRC, when it is the last. -/
def Visit.failsAt (v : Visit) (got : List Byte) (ch : FieldChar) : Prop :=
  ch ≠ cleanChar ch.data ∨ v.passes (got ++ [ch.data]) = false ∨
    replyLength (got ++ [ch.data]) = some (got.length + 1) ∧ ¬ crcCloses (got ++ [ch.data])

/-- Two states that hold the same drop entries except for one slot. -/
def SameDropsBut (i : Slot) (s t : State) : Prop := ∀ j : Slot, j ≠ i → t.drop j = s.drop j

/-- Two states that hold the same drop entries. -/
def SameDrops (s t : State) : Prop := ∀ j : Slot, t.drop j = s.drop j

/-- A line whose next VISIT_START may open a visit: out of reset, RUNNING, with no visit and no BCAST frame
(R113, R115). That a BCAST frame which still waits in its gap counts as one being sent is the model's choice, log 28. -/
def State.lineFree (s : State) (l : Line) : Prop :=
  s.hli.inReset = false ∧ (s.lc l).state = .running ∧ (s.lc l).visit = none ∧ (s.lc l).bcastFrame = none

/-- A line whose probe window has opened: the countdown lowered, or reloaded at 0 with a probe due while the probe
list is not empty (R111). -/
def LineCtl.probeOpened (c : LineCtl) : LineCtl :=
  if c.probeCountdown = 1#8 then
    { c with probeStep := true, probeCountdown := c.cfg.probeInterval,
             phase := if c.probeList = [] then .idle else .probe }
  else { c with probeStep := true, probeCountdown := c.probeCountdown - 1#8, phase := .idle }

/-- A line whose probe window, interrupted by a LINE_STOP or with its visit still to come, has been taken up: with its step
clear it opens, and with its step done it ends when there is no drop to probe (R107, R110, R111, R113). In which act a line
takes it up is the model's choice, log 26. In any other phase nothing is taken up. -/
def LineCtl.probeTakenUp (c : LineCtl) : LineCtl :=
  if c.phase ≠ .probe then c
  else if c.probeStep = false then c.probeOpened
  else if c.probeList = [] then { c with phase := .idle } else c

/-- The link record of a drop that must answer a RESYNC first, as Table 45 gives it after LINE_RESET and a move. -/
def resyncLink : LinkRecord :=
  { resyncNeeded := true, seqOut := false, expectedIn := false, inFlight := false, segIndex := 0 }

/-- The alert mark of a message that joins the inbox of a drop: the alert byte is present and equal to the first payload
byte (R93). -/
def Drop.marks (d : Drop) (m : InMsg) : Bool := d.alertByte.isSome && d.alertByte == m.payload.head?

/-- A message has left the partial slot for the inbox tail, from `d` to `e`: it has the next inbound id, and its alert mark
is decided (R93, R94). -/
def Joined (m : InMsg) (d e : Drop) : Prop :=
  e.partialMsg = none ∧ e.nextInId = d.nextInId + 1#8 ∧
    e.inbox = d.inbox ++ [{ m with id := some d.nextInId, alertMark := d.marks m }]

/-- The cut-off of a drop's partial message (R94): from `d` to `e` the inbox has gained it at its tail as INCOMPLETE, and
nothing when there is none; the partial slot is empty. -/
def CutOff (d e : Drop) : Prop :=
  (d.partialMsg = none → e.partialMsg = none ∧ e.inbox = d.inbox ∧ e.nextInId = d.nextInId) ∧
    ∀ p, d.partialMsg = some p → Joined { p with status := .incomplete } d e

/-- The attention instances of a slot whose drop, now `e`, has gained a message at its inbox tail: INBOX_ALERT is raised
when the alert mark of the message is set, and an INBOX_READY that was reported stays so while its level, taken from the
new contents, is true (R93, R95, R168). DROP_STATE and OUTBOX_LOW stand. -/
def SlotAttn.gained (a : SlotAttn) (mark : Bool) (e : Drop) : SlotAttn :=
  { a with inboxAlert := a.inboxAlert || mark, inboxReadyReported := a.inboxReadyReported && e.inboxReady }

/-- The attention instances of a slot after the cut-off of its drop's partial message, from `d` to `e`; they stand when
there was none (R94). -/
def SlotAttn.afterCut (a : SlotAttn) (d e : Drop) : SlotAttn :=
  match d.partialMsg with
  | none => a
  | some p => a.gained (d.marks p) e

/-- Of the Attention Unit's per-drop and per-line instances only those of one slot have changed. -/
def SameAttnBut (i : Slot) (s t : State) : Prop :=
  (∀ j : Slot, j ≠ i → t.au.slot j = s.au.slot j) ∧ ∀ l : Line, t.au.line l = s.au.line l

/-- A message stands with a drop after an act, from `s` to `t`: as its partial message, or, when it ends, at its inbox
tail, with INBOX_ALERT when its alert mark is set (R89, R90, R93 to R95). The store apart, nothing else has changed. -/
def MessageStands (i : Slot) (ends : Bool) (m : InMsg) (s t : State) : Prop :=
  let d := s.drop i
  let e := t.drop i
  SameDropsBut i s t ∧ t.hli = s.hli ∧ t.retire = s.retire ∧ (∀ l, t.lc l = s.lc l) ∧
    t.store.bcasts = s.store.bcasts ∧
    (ends = false → e = { d with partialMsg := some m }) ∧
    (ends = true → e = { d with inbox := e.inbox, nextInId := e.nextInId, partialMsg := none } ∧ Joined m d e) ∧
    t.au.slot i = (if ends = true then (s.au.slot i).gained (d.marks m) e else s.au.slot i) ∧ SameAttnBut i s t

/-- The state in which a visit to a drop has just begun on a line: the drop is in flight, with its head lock set by
a DELIVER; the visit record holds what Table 47 lists; the drop has left the urgent queue; and cursor, deferred flag
and idle-served flag are as given (R84, R114, R120). -/
def State.visitBegun (s : State) (l : Line) (i : Slot) (o : Origin) (cursor : Nat) (d : Deferred) (idleServed : Bool) :
    State :=
  let b := s.buildFrame i
  let c := s.lc l
  (s.setDrop i { s.drop i with
      link := { (s.drop i).link with inFlight := true }
      headLock := (s.drop i).headLock || b.delivered.isSome }).setLc l
    { c with
      urgent := c.urgent.erase i, cursor := cursor, deferred := d, idleServed := idleServed, receiver := .notWaiting
      visit := some
        { slot := i, origin := o, stateAtStart := (s.drop i).state, frame := b.bytes.map cleanChar, kind := b.kind,
          address := (s.drop i).address, delivered := b.delivered, attemptLimit := 1 + (s.drop i).retryLimit.toNat,
          replyTimeout := (s.drop i).replyTimeout, attempts := 0, phase := .gap } }

/-! ## What statements about the end of a visit say (R133)

Each relation is one part of the end-of-visit act, from the state `u` before it to the state `t` after it, written from
the rule it cites. -/

/-- A reply to a request that holds a code and data alone (R164). -/
def replyOf (tag kind : Byte) (body : List Byte) : OutRecord := { tag := tag, kind := kind, body := body, origin := .request }

/-- The host link after a reply was posted: it stands at the tail of the ready replies, and its request is READY (R162). -/
def Hli.posted (h : Hli) (r : OutRecord) : Hli :=
  { h with
    ready := h.ready ++ [r]
    outstanding := h.outstanding.map (fun o => if o.tag = r.tag then { o with phase := .ready } else o) }

/-- An acceptance or a decline of the segment last sent, by the NEXT of a reply (R85, R128, R129): an acceptance flips SEQ
out, and advances the outbox head or frees it when the segment named in the visit record is one of the locked head's. -/
def NextTaken (i : Slot) (named : Option Delivered) (next : Bool) (u t : State) : Prop :=
  let d := u.drop i
  let flipped := { d with link := { d.link with seqOut := next } }
  (next = d.link.seqOut → t = u) ∧
    (next ≠ d.link.seqOut →
      ((∀ n m rest, named = some n → d.outbox = m :: rest → d.headLock = false ∨ m.id ≠ n.id) →
        t = u.setDrop i flipped) ∧
      ∀ n m rest, named = some n → d.outbox = m :: rest → d.headLock = true → m.id = n.id →
        (n.seg + 1 ≠ m.chain.length →
          t = u.setDrop i { flipped with link := { flipped.link with segIndex := d.link.segIndex + 1 } }) ∧
        (n.seg + 1 = m.chain.length →
          t.drop i = { flipped with outbox := rest, headLock := false, link := { flipped.link with segIndex := 0 } } ∧
            SameDropsBut i u t ∧ t.hli = u.hli ∧ t.retire = u.retire ∧ (∀ l, t.lc l = u.lc l) ∧
            t.store.freeCells = u.store.freeCells ++ m.chain.map Cell.no ∧
            t.store.freeRecords = u.store.freeRecords ++ [m.recNo] ∧ t.store.bcasts = u.store.bcasts ∧
            SameAttnBut i u t ∧
            t.au.slot i = { u.au.slot i with
              outboxLow := (u.au.slot i).outboxLow ||
                (decide (d.outboxTrigger.toNat < d.outbox.length) && decide (rest.length ≤ d.outboxTrigger.toNat)) }))

/-- A DATA segment is judged by its SEQ (R130): a new one is offered to the store, and expected in flips when the store
accepts it; a duplicate changes nothing. -/
def DataTaken (i : Slot) (seq first last : Bool) (data : List Byte) (u t : State) : Prop :=
  (seq ≠ (u.drop i).link.expectedIn → t = u) ∧
    (seq = (u.drop i).link.expectedIn → ∃ (accepted : Bool) (w : State), offerSegment i first last data u = (accepted, w) ∧
      t = if accepted then w.setDrop i { w.drop i with link := { (w.drop i).link with expectedIn := !seq } } else w)

/-- MORE enters the drop at the tail of the urgent queue under the four conditions of R118. -/
def MoreTaken (l : Line) (i : Slot) (more : Bool) (u t : State) : Prop :=
  let d := u.drop i
  let c := u.lc l
  let enters := more = true ∧ u.store.hold = false ∧
    d.inbox.length + (if d.partialMsg.isSome then 1 else 0) < d.inboxLimit.toNat ∧ i ∉ c.urgent ∧ c.urgent.length < 8
  (enters → t = u.setLc l { c with urgent := c.urgent ++ [i] }) ∧ (¬ enters → t = u)

/-- A RESYNC_REQ: resync-needed with its rewind, the end of the settle wait, and the cut-off with its INBOX_ALERT (R87,
R93, R94, R132). -/
def ResyncReqTaken (i : Slot) (u t : State) : Prop :=
  let d := u.drop i
  let e := t.drop i
  e = { d with
      link := { d.link with resyncNeeded := true, segIndex := 0 }, settleWait := false
      inbox := e.inbox, nextInId := e.nextInId, partialMsg := none } ∧
    CutOff d e ∧ SameDropsBut i u t ∧ t.hli = u.hli ∧ t.store = u.store ∧ t.retire = u.retire ∧ (∀ l, t.lc l = u.lc l) ∧
    t.au.slot i = (u.au.slot i).afterCut d e ∧ SameAttnBut i u t

/-- Part 1: the valid reply is processed in the order of R127. -/
def ReplyProcessed (l : Line) (v : Visit) (f : DropFrame) (u t : State) : Prop :=
  let i := v.slot
  let d := u.drop i
  match f.kind with
  | .resyncAck =>
    t = u.setDrop i { d with link := { d.link with resyncNeeded := false, seqOut := false, expectedIn := false } }
  | .resyncReq => ResyncReqTaken i u t
  | _ => ∃ a b : State, NextTaken i v.delivered f.next u a ∧
      (if f.kind = .data then DataTaken i f.seq f.first f.last f.payload (a.setDrop i { a.drop i with settleWait := false }) b
        else b = a.setDrop i { a.drop i with settleWait := false }) ∧
      MoreTaken l i f.more b t

/-- Parts 2 and 3 up to the report: a LOST drop stands at the tail of the probe list, and the drop is in flight no
longer (R105, R133). -/
def State.landed (u : State) (l : Line) (i : Slot) : State :=
  let c := (u.lc l).probeRemove i
  (if (u.drop i).state = .lost then u.setLc l { c with probeList := c.probeList ++ [i] } else u).setDrop i
    { u.drop i with link := { (u.drop i).link with inFlight := false } }

/-- The report of a success (R27, R28, R32): miss count 0; a RESYNC_ACK makes the drop ONLINE, and takes a LOST one from
the probe list to the ring tail; without it a SUSPECT drop becomes ONLINE; a change of state raises DROP_STATE. -/
def SuccessReported (i : Slot) (ack : Bool) (u t : State) : Prop :=
  let d := u.drop i
  let after := if ack = true ∨ d.state = .suspect then DropState.online else d.state
  t.drop i = { d with missCount := 0, state := after } ∧ SameDropsBut i u t ∧ t.hli = u.hli ∧ t.store = u.store ∧
    t.retire = u.retire ∧
    (∀ m, t.lc m = if ack = true ∧ d.state = .lost ∧ m = d.currentLine
      then ((u.lc m).probeRemove i).ringAppend i d.cls else u.lc m) ∧
    t.au = if after = d.state then u.au else u.au.modSlot i (fun a => { a with dropState := true })

/-- The report of a failure (R24, R29, R30, R32): the miss count grows; Table 18 gives the state; a drop that becomes LOST
leaves the ring for the probe-list tail, needs a RESYNC, is rewound and cut off, with the INBOX_ALERT of the cut-off (R94);
a change of state raises DROP_STATE. -/
def FailureReported (i : Slot) (u t : State) : Prop :=
  let d := u.drop i
  let e := t.drop i
  let miss := min 255 (d.missCount.toNat + 1)
  let after := if 3 ≤ miss ∨ d.state = .lost then DropState.lost else if d.state = .joining then .joining else .suspect
  let falls := after = .lost ∧ d.state ≠ .lost
  e = { d with
      missCount := BitVec.ofNat 8 miss, state := after
      link := if falls then { d.link with resyncNeeded := true, segIndex := 0 } else d.link
      settleWait := if falls then false else d.settleWait
      inbox := e.inbox, nextInId := e.nextInId, partialMsg := e.partialMsg } ∧
    (falls → CutOff d e) ∧
    (¬ falls → e.inbox = d.inbox ∧ e.nextInId = d.nextInId ∧ e.partialMsg = d.partialMsg) ∧
    SameDropsBut i u t ∧ t.hli = u.hli ∧ t.store = u.store ∧ t.retire = u.retire ∧
    (∀ m, t.lc m = if falls ∧ m = d.currentLine
      then { (u.lc m).ringRemove i with probeList := ((u.lc m).ringRemove i).probeList ++ [i] } else u.lc m) ∧
    t.au.slot i = { (if falls then (u.au.slot i).afterCut d e else u.au.slot i) with
      dropState := (u.au.slot i).dropState || decide (after ≠ d.state) } ∧
    SameAttnBut i u t

/-- The entry of a drop that has taken a place on a line (R49, R153): JOINING there, with a reset link record, its partial
message cut off and no pending move. -/
def Arrived (line : Line) (addr : Byte) (d e : Drop) : Prop :=
  e = { d with
      currentLine := line, address := addr, state := .joining, link := resyncLink, settleWait := false
      pendingMove := none, inbox := e.inbox, nextInId := e.nextInId, partialMsg := none } ∧ CutOff d e

/-- A drop has left one line and stands at the ring tail of another, or of the same (R49, R153). -/
def ChangedLine (i : Slot) (old new : Line) (cls : Byte) (u t : State) : Prop :=
  let off := fun c : LineCtl => ((c.ringRemove i).probeRemove i).urgentRemove i
  t.lc new = (if new = old then off (u.lc new) else u.lc new).ringAppend i cls ∧
    ∀ m, m ≠ new → t.lc m = if m = old then off (u.lc m) else u.lc m

/-- Part 4: a pending move is abandoned when its target line is in FAULT, and applied otherwise, with the INBOX_ALERT of the
cut-off; its DROP_MOVE is answered (R49, R50, R52, R94). -/
def MoveSettled (i : Slot) (u t : State) : Prop :=
  let d := u.drop i
  (d.pendingMove = none → t = u) ∧
    ∀ p, d.pendingMove = some p →
      ((u.lc p.line).state = .fault →
        t = (u.setDrop i { d with pendingMove := none }).setHli (u.hli.posted (replyOf p.tag 0x94#8 [0x25#8]))) ∧
      ((u.lc p.line).state ≠ .fault →
        Arrived p.line p.address
            { d with
              missCount := 0
              homeLine := if p.setHome then p.line else d.homeLine
              alternate := if p.setHome ∧ d.alternate = some p.line then some d.homeLine else d.alternate }
            (t.drop i) ∧
          SameDropsBut i u t ∧ ChangedLine i d.currentLine p.line d.cls u t ∧ t.store = u.store ∧ t.retire = u.retire ∧
          t.hli = u.hli.posted (replyOf p.tag 0x94#8 [0x00#8]) ∧
          t.au.slot i = (u.au.slot i).afterCut d (t.drop i) ∧ SameAttnBut i u t)

/-- The drop of a slot stands in the poll ring of a line, by its state and its current line (R26, R152). -/
def State.ringDrop (x : State) (l : Line) (i : Slot) : Bool :=
  (x.drop i).currentLine == l &&
    ((x.drop i).state == .joining || (x.drop i).state == .online || (x.drop i).state == .suspect)

/-- Failover of a line moves the drop of a slot: its alternate line is the other line, that line is RUNNING, and the place
there is neither in use nor reserved by another entry (R152). -/
def State.failsOver (x : State) (l : Line) (i : Slot) : Prop :=
  (x.drop i).alternate = some l.other ∧ (x.lc l.other).state = .running ∧
    ∀ j, j ≠ i → (x.drop j).holds l.other (x.drop i).address = false

/-- A slot's turn in the failover of a line, from `x` to `y`: its drop is moved to the ring tail of the alternate line, or
stranded LOST at the probe-list tail, with DROP_STATE and the INBOX_ALERT of the cut-off; a drop that is not in the ring is
not taken (R94, R152 to R154). -/
def FailoverTurn (l : Line) (i : Slot) (x y : State) : Prop :=
  let d := x.drop i
  let e := y.drop i
  let c := (x.lc l).ringRemove i
  (x.ringDrop l i = false → y = x) ∧
    (x.ringDrop l i = true →
      SameDropsBut i x y ∧ y.hli = x.hli ∧ y.store = x.store ∧ y.retire = x.retire ∧
      y.au.slot i = { (x.au.slot i).afterCut d e with dropState := true } ∧ SameAttnBut i x y ∧
      (x.failsOver l i → Arrived l.other d.address d e ∧ ChangedLine i l l.other d.cls x y) ∧
      (¬ x.failsOver l i →
        e = { d with
          state := .lost, link := { d.link with resyncNeeded := true, segIndex := 0 }, settleWait := false
          inbox := e.inbox, nextInId := e.nextInId, partialMsg := none } ∧ CutOff d e ∧
        y.lc l = { c with probeList := c.probeList ++ [i] } ∧ y.lc l.other = x.lc l.other))

/-- The broadcast queue of a line is discarded (R102): each broadcast leaves the line, those that wait on no line are
freed, and BCAST_DROPPED is raised with the number when it is not 0. -/
def BcastsDiscarded (l : Line) (u t : State) : Prop :=
  let gone := u.store.bcasts.filter (fun b => !b.on l.other)
  let n := (u.bcastQueue l).length
  let a := u.au.line l
  t.store.bcasts = (u.store.bcasts.filter (fun b => b.on l.other)).map (fun b => b.off l) ∧
    t.store.freeCells = u.store.freeCells ++ gone.map (fun b => b.cell.no) ∧
    t.store.freeRecords = u.store.freeRecords ++ gone.map Bcast.recNo ∧
    t.au.line l.other = u.au.line l.other ∧
    t.au.line l = if n = 0 then a
      else { a with bcastDropped := true, dropped := BitVec.ofNat 8 (min 255 (a.dropped.toNat + n)) }

/-- Fault entry up to failover (R102, R151): the line is in FAULT with its urgent queue empty and its broadcast queue
discarded. That the deferred flag is clear is R107. -/
def FaultBegun (l : Line) (u t : State) : Prop :=
  t.lc l = { u.lc l with state := .fault, deferred := .clear, urgent := [] } ∧ t.lc l.other = u.lc l.other ∧
    SameDrops u t ∧ t.hli = u.hli ∧ t.retire = u.retire ∧ (∀ j, t.au.slot j = u.au.slot j) ∧ BcastsDiscarded l u t

/-- Fault entry and failover (R151, R152, R155): the turns of the 64 slots in ascending order, each on the state the
turns before it left; FAILOVER with the numbers moved and stranded; and ABORTED to an outstanding LINE_STOP. -/
def EntersFault (l : Line) (u t : State) : Prop :=
  ∃ (x : Nat → State) (moved stranded : List Slot),
    FaultBegun l u (x 0) ∧ (∀ i : Slot, FailoverTurn l i (x i.val) (x (i.val + 1))) ∧
    moved.Nodup ∧ stranded.Nodup ∧
    (∀ i : Slot, i ∈ moved ↔ (x i.val).ringDrop l i = true ∧ (x i.val).failsOver l i) ∧
    (∀ i : Slot, i ∈ stranded ↔ (x i.val).ringDrop l i = true ∧ ¬ (x i.val).failsOver l i) ∧
    let w := x 64
    t.drops = w.drops ∧ t.store = w.store ∧ t.retire = w.retire ∧ t.lc l.other = w.lc l.other ∧
    t.lc l = { w.lc l with stopTag := none } ∧
    t.hli = (match (w.lc l).stopTag with
      | none => w.hli
      | some st => w.hli.posted (replyOf st 0xB2#8 [0x40#8])) ∧
    t.au = w.au.modLine l (fun a => { a with
      failover := true
      moved := BitVec.ofNat 8 (min 255 (a.moved.toNat + moved.length))
      stranded := BitVec.ofNat 8 (min 255 (a.stranded.toNat + stranded.length)) })

/-- Part 5: the consecutive-fail count by Table 57, and the fault check (R149, R150). `success` is absent for a visit whose
drop was RETIRING. -/
def FaultChecked (l : Line) (atStart : DropState) (success : Option Bool) (u t : State) : Prop :=
  let c := u.lc l
  let fails := match success with
    | none => c.failCount
    | some true => 0
    | some false => c.failCount + if atStart = .online ∨ atStart = .suspect then 1 else 0
  let counted := u.setLc l { c with failCount := fails }
  (fails < c.cfg.faultThreshold.toNat → t = counted) ∧
    (c.cfg.faultThreshold.toNat ≤ fails → EntersFault l counted t)

/-- Part 6: the visit record is absent and the line free; a probe visit ends the probe window; and a STOPPING line is
STOPPED, with OK to its LINE_STOP (R111, R133, R144). That the deferred flag is clear then is R107. -/
def LineFreed (l : Line) (o : Origin) (u t : State) : Prop :=
  let c := u.lc l
  let freed := { c with visit := none, receiver := .notWaiting, phase := if o = .probe then .idle else c.phase }
  (c.state ≠ .stopping → t = u.setLc l freed) ∧
    (c.state = .stopping →
      t = (u.setLc l { freed with state := .stopped, deferred := .clear, stopTag := none }).setHli
        (match c.stopTag with
        | none => u.hli
        | some st => u.hli.posted (replyOf st 0xB2#8 [0x00#8])))

/-- Parts 3 to 6 for a drop that is not RETIRING, from the state in which its reply, if it had one, is processed. -/
def VisitClosed (l : Line) (v : Visit) (reply : Option DropFrame) (u t : State) : Prop :=
  ∃ a b c : State,
    (match reply with
      | none => FailureReported v.slot (u.landed l v.slot) a
      | some f => SuccessReported v.slot (f.kind == .resyncAck) (u.landed l v.slot) a) ∧
    MoveSettled v.slot a b ∧ FaultChecked l v.stateAtStart (some reply.isSome) b c ∧ LineFreed l v.origin c t

/-- A slot begins retiring (R56), from `x` to `y`: its drop is RETIRING without messages and without a pending move, in no
collection of its line; its cells and records are free, and the hold state is evaluated on that (R71, R74); its attention
instances are clear; and the reply to a pending move is ABORTED. The order of the freed cells and records is log 14. -/
def BeginsRetiring (i : Slot) (x y : State) : Prop :=
  let d := x.drop i
  let cells := x.store.freeCells ++ d.inboundCells ++ d.outboxCells
  y.drop i = { d with
      state := .retiring, pendingMove := none, outbox := [], headLock := false, settleWait := false, inbox := []
      partialMsg := none } ∧
    SameDropsBut i x y ∧ y.retire = x.retire ∧
    (∀ m, y.lc m = if m = d.currentLine then (((x.lc m).ringRemove i).probeRemove i).urgentRemove i else x.lc m) ∧
    y.store = { x.store with
      freeCells := cells, freeRecords := x.store.freeRecords ++ d.inboundRecs ++ d.outboxRecs
      hold := if cells.length ≤ x.store.holdMark.toNat then true
        else if x.store.resumeMark.toNat ≤ cells.length then false else x.store.hold } ∧
    y.au.slot i = .clear ∧ SameAttnBut i x y ∧
    y.hli = match d.pendingMove with
      | none => x.hli
      | some p => x.hli.posted (replyOf p.tag 0x94#8 [0x40#8])

/-- A retire operation that has completed its next slot (R55). -/
def RetireOp.passed (op : RetireOp) : RetireOp := { op with completed := op.completed + 1, next := op.next + 1 }

/-- A retire operation that is not cancelled goes on with its record `op`, from `u` to `t` (R55 to R58). With as many slots
completed as its count it is over, with OK and that number. Otherwise its next slot completes in the act, when it is VACANT
or holds a drop that is not in flight, which then is a VACANT entry, and the operation goes on; or the drop is in flight,
and the operation waits with that slot RETIRING. That it stands where its next slot is RETIRING or past the table is the
model's choice, log 23: no run leads there. -/
inductive RetireGoesOn : RetireOp → State → State → Prop where
  | ends (op : RetireOp) (u : State) : op.completed = op.count →
      RetireGoesOn op u ((u.setRetire none).setHli
        (u.hli.posted (replyOf op.tag 0x95#8 [0x00#8, BitVec.ofNat 8 op.count])))
  | vacant (op : RetireOp) (u t : State) (i : Slot) : op.completed ≠ op.count → op.next = i.val →
      (u.drop i).state = .vacant → RetireGoesOn op.passed u t → RetireGoesOn op u t
  | idle (op : RetireOp) (u w t : State) (i : Slot) : op.completed ≠ op.count → op.next = i.val →
      (u.drop i).state.live = true → (u.drop i).link.inFlight = false → BeginsRetiring i u w →
      RetireGoesOn op.passed (w.setDrop i (.vacant (u.drop i).generation)) t → RetireGoesOn op u t
  | waits (op : RetireOp) (u w : State) (i : Slot) : op.completed ≠ op.count → op.next = i.val →
      (u.drop i).state.live = true → (u.drop i).link.inFlight = true → BeginsRetiring i u w →
      RetireGoesOn op u (w.setRetire (some op))
  | stands (op : RetireOp) (u : State) : op.completed ≠ op.count →
      (∀ i : Slot, op.next = i.val → (u.drop i).state = .retiring) → RetireGoesOn op u (u.setRetire (some op))

/-- The visit to a RETIRING drop has ended (R57, R135): the entry is VACANT; its retire operation counts it and, when the
range is done or it was cancelled, ends with its replies (R58, R60), and otherwise goes on above this slot (R55). -/
def RetiredOut (i : Slot) (u t : State) : Prop :=
  let vacated := u.setDrop i (.vacant (u.drop i).generation)
  ((∀ op, u.retire = some op → op.next ≠ i.val) → t = vacated) ∧
    ∀ op, u.retire = some op → op.next = i.val →
      let done := op.completed + 1
      let cancelled := fun h : Hli => match op.cancelTag with
        | none => h
        | some c => h.posted (replyOf c 0x83#8 [0x00#8])
      (done = op.count →
        t = (vacated.setRetire none).setHli
          (cancelled (u.hli.posted (replyOf op.tag 0x95#8 [0x00#8, BitVec.ofNat 8 done])))) ∧
      (done ≠ op.count → op.cancelTag ≠ none →
        t = (vacated.setRetire none).setHli
          (cancelled (u.hli.posted (replyOf op.tag 0x95#8
            [0x02#8, BitVec.ofNat 8 done, BitVec.ofNat 8 (op.next + 1), BitVec.ofNat 8 (op.count - done)])))) ∧
      (done ≠ op.count → op.cancelTag = none → RetireGoesOn op.passed vacated t)

/-- A drop of a line that is reset (R146), from `d` to `e`: its link record is reset with the rewind and the cut-off, its
miss count is 0, and an ONLINE or SUSPECT drop is JOINING. -/
def DropReset (d e : Drop) : Prop :=
  e = { d with
      link := resyncLink, settleWait := false, missCount := 0
      state := if d.state = .online ∨ d.state = .suspect then .joining else d.state
      inbox := e.inbox, nextInId := e.nextInId, partialMsg := none } ∧ CutOff d e

/-- LINE_RESET up to its part 5 (R107, R110, R136, R145, R146), from `s` to `u`: the visit is cut off, the urgent and the
broadcast queue are empty, the round position is at its start, and the living drops of the line are reset, with DROP_STATE
for those that fall back to JOINING and the INBOX_ALERT of their cut-offs (R94). Round start time and due marks stand: the model's choice, log 27. -/
def LineCut (l : Line) (s u : State) : Prop :=
  let onLine := fun i : Slot => (s.drop i).currentLine = l ∧ (s.drop i).state.live = true
  let visited := fun i : Slot => (s.lc l).visit.any (fun v => v.slot == i)
  u.lc l = { s.lc l with
      urgent := [], roundNumber := 0, phase := .ringWalk, probeCountdown := (s.lc l).cfg.probeInterval, cursor := 0
      probeStep := false, deferred := .clear, idleServed := false, failCount := 0, visit := none, bcastFrame := none
      receiver := .notWaiting } ∧
    u.lc l.other = s.lc l.other ∧ u.hli = s.hli ∧ u.retire = s.retire ∧ BcastsDiscarded l s u ∧
    (∀ i, onLine i → DropReset (s.drop i) (u.drop i) ∧
      u.au.slot i = { (s.au.slot i).afterCut (s.drop i) (u.drop i) with
        dropState := (s.au.slot i).dropState || (s.drop i).state == .online || (s.drop i).state == .suspect }) ∧
    ∀ i, ¬ onLine i → u.au.slot i = s.au.slot i ∧
      u.drop i = { s.drop i with link := { (s.drop i).link with
        inFlight := (s.drop i).link.inFlight && !visited i } }

/-- Part 6 of LINE_RESET, for the visit that was cut off: a RETIRING entry becomes VACANT and its retire operation goes on;
a pending move is applied or abandoned (R53, R57, R145). -/
def CutVisitSettled (visit : Option Visit) (u w : State) : Prop :=
  match visit with
  | none => w = u
  | some v => if (u.drop v.slot).state = .retiring then RetiredOut v.slot u w else MoveSettled v.slot u w

/-- Parts 7 and 8 of LINE_RESET and its own reply (R145): ABORTED to an outstanding LINE_STOP, then the line is DISABLED with
its LINE_FAULT level over, and OK to the request of that tag. -/
def LineDisabled (l : Line) (tag : Byte) (w t : State) : Prop :=
  let stopped := match (w.lc l).stopTag with
    | none => w.hli
    | some st => w.hli.posted (replyOf st 0xB2#8 [0x40#8])
  t.hli = stopped.posted (replyOf tag 0xB3#8 [0x00#8]) ∧
    t.lc l = { w.lc l with state := .disabled, stopTag := none } ∧ t.lc l.other = w.lc l.other ∧
    t.drops = w.drops ∧ t.store = w.store ∧ t.retire = w.retire ∧
    t.au = w.au.modLine l (fun a => { a with faultReported := false })

/-- The end of a visit to a RETIRING drop (R135): whatever its reply held, only parts 3, 5 and 6 act on it. -/
def RetiringVisitClosed (l : Line) (v : Visit) (u t : State) : Prop :=
  ∃ a b : State, RetiredOut v.slot u a ∧ FaultChecked l v.stateAtStart none a b ∧ LineFreed l v.origin b t

end Sys2Proof.Machine
end

