-- ==== Sys2Proof/WellFormed.lean ====
section
/-!
DEFINITION. Which commands are well formed: a command whose operands an occurrence of its event can have. A meaning is
total on every command; this check says which ones stand for the event their row names.
-/

namespace Sys2Proof

open Sys2Proof.Machine

/-- The framer over a run of bytes: its state after them, and the records it handed on (R157). -/
def runFramer (f : Framer) : List Byte → Framer × List Handed
  | [] => (f, [])
  | b :: bs =>
    let step := f.take b
    let rest := runFramer step.1 bs
    (rest.1, step.2.toList ++ rest.2)

/-- A handed record fails a check of R159. -/
def Handed.rejected : Handed → Bool
  | .badLen _ => true
  | .whole tag kind _ crcGood =>
    match rejectionOf tag kind crcGood with
    | .error _ => true
    | .ok _ => false

/-- Bytes that form one record rejected at its last byte (R157, R159). -/
def rejectedBytes (raw : List Byte) : Bool :=
  match runFramer .hunt raw.dropLast, runFramer .hunt raw with
  | (_, []), (_, [r]) => Handed.rejected r
  | _, _ => false

/-- Bytes that hand on no record (R157). -/
def partialBytes (raw : List Byte) : Bool := (runFramer .hunt raw).2.isEmpty

/-- Bytes that leave the framer inside a record (R157). -/
def midRecord (raw : List Byte) : Bool := (runFramer .hunt raw).1 != .hunt

/-- The operands of a host request: a tag that is not 00h and a body that a record can carry (R159, section 9.2). -/
def requestOperandsGood (tag : Byte) (body : List Byte) : Bool := tag != 0#8 && body.length + 2 ≤ Config.lenMax

/-- The longest field frame, in characters (R3). -/
def frameChars : Nat := 37

/-- The check on a command's operands. -/
def Instr.wellFormed : Instr → Bool
  | .deviceInfo tag body => requestOperandsGood tag body
  | .deviceRestart tag body => requestOperandsGood tag body
  | .cancel tag body => requestOperandsGood tag body
  | .dropCreate tag body => requestOperandsGood tag body
  | .dropModify tag body => requestOperandsGood tag body
  | .dropQuery tag body => requestOperandsGood tag body
  | .dropScan tag body => requestOperandsGood tag body
  | .dropMove tag body => requestOperandsGood tag body
  | .dropRetire tag body => requestOperandsGood tag body
  | .msgSubmit tag body => requestOperandsGood tag body
  | .msgFetch tag body => requestOperandsGood tag body
  | .msgRelease tag body => requestOperandsGood tag body
  | .msgPurge tag body => requestOperandsGood tag body
  | .msgBroadcast tag body => requestOperandsGood tag body
  | .poolStatus tag body => requestOperandsGood tag body
  | .poolMarks tag body => requestOperandsGood tag body
  | .lineConfig tag body => requestOperandsGood tag body
  | .lineStart tag body => requestOperandsGood tag body
  | .lineStop tag body => requestOperandsGood tag body
  | .lineReset tag body => requestOperandsGood tag body
  | .lineStatus tag body => requestOperandsGood tag body
  | .pollNow tag body => requestOperandsGood tag body
  | .attnMask tag body => requestOperandsGood tag body
  | .attnPeek tag body => requestOperandsGood tag body
  | .rejection raw => rejectedBytes raw
  | .interByteGapExpiry taken => partialBytes taken && midRecord taken
  | .hostStopBitError taken => partialBytes taken
  | .hostLinkBreak taken => partialBytes taken
  | .replyFrameReceived _ chars => !chars.isEmpty && chars.length ≤ frameChars
  | .hrdyAsserted => true
  | .hrdyDeasserted => true
  | .recordTransmissionEnd => true
  | .resetnAsserted => true
  | .deviceReset _ => true
  | .powerOn _ => true
  | .visitStart _ => true
  | .turnaroundGapElapsed _ => true
  | .gapWaitLimitExpiry _ => true
  | .frameSent _ => true
  | .replyTimeout _ => true
  | .intraFrameGapExpiry _ => true
  | .fieldCharacterReceived _ _ => true
  | .broadcastWindow _ => true
  | .bcastFrameEnd _ => true
  | .roundPeriodElapsed _ => true
  | .fieldReceiveInputReturnsHigh _ => true
  | .hrxdReturnsHigh => true

end Sys2Proof
end

