-- ==== Sys2Proof/Certificates/Slice0/Obligations.lean ====
section
/-!
DEFINITION. The statements about the PL264 that the provers prove.
-/

open Sys2Proof Sys2Proof.Machine

/-! ## The queue of commands -/

/-- With a command at the front of its queue, a step is that command's effect on the state with the queue's rest. On an
empty queue the part idles: the model's choice, log 5. -/
def Obligations.StepTakesTheFrontCommand : Prop :=
  (∀ (s : State) (c : Instr) (rest : List Instr),
    step { s with pending := c :: rest } = exec c { s with pending := rest }) ∧
  ∀ s : State, s.pending = [] → step s = .next s

/-- Every command answers a next state, and no command touches the queue or its own successors in it. That no command
stops the part is the model's reading of the spec, in which no rule does: log 16 (DEDUCED). -/
def Obligations.EveryCommandCompletes : Prop :=
  ∀ (c : Instr) (s : State), ∃ t, exec c s = .next t ∧ t.pending = s.pending

/-! ## Reset -/

/-- What a device reset leaves in each block, as R167 lists it: the framer in HUNT, no outstanding request, no ready
reply, the immediate slot free, the transmitter idle, no restart pending; every entry VACANT with generation 0 and
no retire operation; every cell and record free, the default marks, not in HOLD; both lines DISABLED with the
default configuration and empty collections; RESTARTED alone pending and every mask open. -/
def Obligations.ResetValues : Prop :=
  let s := State.reset
  s.hli.framer = .hunt ∧ s.hli.outstanding = [] ∧ s.hli.ready = [] ∧ s.hli.immediateUsed = false ∧ s.hli.tx = none ∧
    s.hli.restartPending = false ∧ (∀ i, s.drop i = Drop.vacant 0) ∧ s.retire = none ∧
    s.store.freeCells.length = 512 ∧ s.store.freeRecords.length = 256 ∧ s.store.bcasts = [] ∧ s.store.hold = false ∧
    s.store.holdMark = 24#16 ∧ s.store.resumeMark = 56#16 ∧ s.store.lowMark = 80#16 ∧
    (∀ l, (s.lc l).state = .disabled ∧
      (s.lc l).cfg = { rateCode := 1, gap := 4, roundPeriod := 0, probeInterval := 16, faultThreshold := 8 } ∧
      (s.lc l).ring = [] ∧ (s.lc l).probeList = [] ∧ (s.lc l).urgent = [] ∧ (s.lc l).failCount = 0 ∧
      (s.lc l).visit = none ∧ (s.lc l).roundNumber = 0 ∧ (s.lc l).probeCountdown = 16 ∧
      (s.lc l).receiver = .notWaiting) ∧
    s.au.masks = 0x07FF#16 ∧ (∀ c, s.condPending c = true ↔ c = .restarted)

/-- The invariants of this file hold right after reset. -/
def Obligations.InvariantsHoldAtReset : Prop :=
  PoolRule State.reset ∧ OutstandingRule State.reset ∧ UrgentRule State.reset ∧ StoreConserved State.reset ∧
    PlacesUnique State.reset

/-- The end of a reset gives every block its reset values and samples the straps; the transmitter then chooses. The
queue of commands, the count of moments (log 3), the level on HRDY (log 6) and the count of the straps' free values (log 12)
stand, the model's choice; POWER_ON starts the count of moments (log 22). -/
def Obligations.DeviceResetAndPowerOn : Prop :=
  ∀ (s : State) (p : Straps),
    let link : Hli :=
      { Hli.reset with hostRate := p, straps := p, hrdy := s.hli.hrdy, strapReads := s.hli.strapReads }
    exec (.deviceReset p) s =
        .next (startTx { State.reset with pending := s.pending, timebase := s.timebase, hli := link }) ∧
      exec (.powerOn p) s = .next (startTx { State.reset with pending := s.pending, timebase := 0, hli := link })

/-- RESETN taken low: the record in transmission stops, the visits and BCAST frames in progress are cut off, and no
drop is in flight on their account. Everything else stands until the reset ends: the model's choice, log 15. -/
def Obligations.ResetnCutsOff : Prop :=
  ∀ s : State, ∃ t, exec .resetnAsserted s = .next t ∧
    t.hli = { s.hli with inReset := true, tx := none } ∧
    (∀ l, t.lc l = { s.lc l with visit := none, bcastFrame := none, receiver := .notWaiting }) ∧
    (∀ (l : Line) (v : Visit), (s.lc l).visit = some v → (t.drop v.slot).link.inFlight = false) ∧
    (∀ i, t.drop i = { s.drop i with link := { (s.drop i).link with inFlight := (t.drop i).link.inFlight } }) ∧
    (∀ i, (∀ (l : Line) (v : Visit), (s.lc l).visit = some v → v.slot ≠ i) → t.drop i = s.drop i) ∧
    t.store = s.store ∧ t.au = s.au ∧ t.retire = s.retire ∧ t.timebase = s.timebase

/-- While RESETN is held low, the bytes of host records and the events of the field lines have no effect (R167; that
timers too stand still is the model's choice, log 15). -/
def Obligations.ResetHoldsThePart : Prop :=
  ∀ s : State, s.hli.inReset = true →
    (∀ (k : ReqKind) (tag : Byte) (body : List Byte), exec (k.command tag body) s = .next s) ∧
    (∀ raw, exec (.rejection raw) s = .next s ∧ exec (.interByteGapExpiry raw) s = .next s ∧
      exec (.hostStopBitError raw) s = .next s ∧ exec (.hostLinkBreak raw) s = .next s) ∧
    exec .hrxdReturnsHigh s = .next s ∧
    (∀ l, exec (.visitStart l) s = .next s ∧ exec (.turnaroundGapElapsed l) s = .next s ∧
      exec (.gapWaitLimitExpiry l) s = .next s ∧ exec (.frameSent l) s = .next s ∧
      exec (.replyTimeout l) s = .next s ∧ exec (.intraFrameGapExpiry l) s = .next s ∧
      exec (.broadcastWindow l) s = .next s ∧ exec (.bcastFrameEnd l) s = .next s ∧
      exec (.roundPeriodElapsed l) s = .next s ∧ exec (.fieldReceiveInputReturnsHigh l) s = .next s ∧
      (∀ ch, exec (.fieldCharacterReceived l ch) s = .next s) ∧
      ∀ chars, exec (.replyFrameReceived l chars) s = .next s)

/-! ## The host link -/

/-- The CRC of R4 on the nine bytes 31h to 39h is 29B1h. The bytes of a record with any tag, kind and body of 0 to 248 bytes
are A5h, LEN, tag, kind, body and the CRC over LEN to the body, high byte first; the framer in HUNT hands exactly that
record on with its last byte, and is in HUNT again; with any other CRC it hands the record on as one whose CRC differs
(R157). A record in transmission stands on HTXD as the characters of those bytes, back to back: for each byte a low start
bit, its eight bits from the least significant, and a high stop bit (R156). With no record in transmission, and in reset,
HTXD sends nothing and is held high (R156, R167). -/
def Obligations.CrcCheckValueAndFraming : Prop :=
  crc16 [0x31#8, 0x32#8, 0x33#8, 0x34#8, 0x35#8, 0x36#8, 0x37#8, 0x38#8, 0x39#8] = 0x29B1#16 ∧
    recordBytes 0x07#8 0x34#8 [0x01#8] =
      [0xA5#8, 0x03#8, 0x07#8, 0x34#8, 0x01#8, hiByte (crc16 [0x03#8, 0x07#8, 0x34#8, 0x01#8]),
        loByte (crc16 [0x03#8, 0x07#8, 0x34#8, 0x01#8])] ∧
    (∀ (tag kind : Byte) (body : List Byte), body.length ≤ 248 →
      let counted := BitVec.ofNat 8 (body.length + 2) :: tag :: kind :: body
      recordBytes tag kind body = 0xA5#8 :: counted ++ [hiByte (crc16 counted), loByte (crc16 counted)] ∧
        runFramer .hunt (recordBytes tag kind body) = (.hunt, [.whole tag kind body true]) ∧
        ∀ other : Half, other ≠ crc16 counted →
          runFramer .hunt (0xA5#8 :: counted ++ [hiByte other, loByte other]) = (.hunt, [.whole tag kind body false])) ∧
    ∀ s : State,
      let levels := fun b : Byte =>
        [false, b.getLsbD 0, b.getLsbD 1, b.getLsbD 2, b.getLsbD 3, b.getLsbD 4, b.getLsbD 5, b.getLsbD 6, b.getLsbD 7, true]
      (∀ r, s.hli.inReset = false → s.hli.tx = some r →
        let counted := BitVec.ofNat 8 (r.body.length + 2) :: r.tag :: r.kind :: r.body
        s.htxd = (0xA5#8 :: counted ++ [hiByte (crc16 counted), loByte (crc16 counted)]).flatMap levels) ∧
        (s.hli.inReset = true ∨ s.hli.tx = none → s.htxd = [])

/-- A valid record is refused before any owner sees it when its tag is in use, and when four requests are
outstanding: an immediate reply with its kind plus 80h through a free immediate-reply slot, or REPLY_LOST counted
when the slot is occupied. Nothing else changes (R160, R161). -/
def Obligations.AdmissionRefuses : Prop :=
  ∀ (s : State) (k : ReqKind) (tag : Byte) (body : List Byte) (code : ReplyCode),
    s.listens = true → tag ≠ 0#8 → body.length ≤ 248 →
    ((∃ o ∈ s.hli.outstanding, o.tag = tag) ∧ code = .tagInUse ∨
      (∀ o ∈ s.hli.outstanding, o.tag ≠ tag) ∧ 4 ≤ s.hli.outstanding.length ∧ code = .tableFull) →
    (s.hli.immediateUsed = false →
      exec (k.command tag body) s = .next (startTx (s.setHli { s.hli with
        immediateUsed := true
        ready := s.hli.ready ++ [{ tag := tag, kind := k.byte + 0x80#8, body := [code.byte], origin := .immediate }] }))) ∧
    (s.hli.immediateUsed = true →
      exec (k.command tag body) s = .next (startTx (s.setAu { s.au with
        replyLost := true, replyLostCount := BitVec.ofNat 8 (min 255 (s.au.replyLostCount.toNat + 1)) })))

/-- A record that fails the checks of R159 gets an immediate reply of kind FFh with its tag and the code of the first
check it fails: LEN out of range, CRC, kind, tag 00h. With the slot occupied the reply is lost and counted. -/
def Obligations.RejectionAnswers : Prop :=
  ∀ (s : State) (raw : List Byte) (r : Handed) (tag : Byte) (code : ReplyCode),
    s.listens = true → rejectedBytes raw = true → (runFramer .hunt raw).2 = [r] →
    (r = .badLen tag ∧ code = .badLength ∨
      (∃ kind body, r = .whole tag kind body false ∧ code = .check) ∨
      (∃ kind body, r = .whole tag kind body true ∧ ReqKind.ofByte kind = none ∧ code = .badKind) ∨
      ∃ kind body, r = .whole tag kind body true ∧ ReqKind.ofByte kind ≠ none ∧ tag = 0#8 ∧ code = .badValue) →
    (s.hli.immediateUsed = false →
      exec (.rejection raw) s = .next (startTx (s.setHli { s.hli with
        immediateUsed := true
        ready := s.hli.ready ++ [{ tag := tag, kind := 0xFF#8, body := [code.byte], origin := .immediate }] }))) ∧
    (s.hli.immediateUsed = true →
      exec (.rejection raw) s = .next (startTx (s.setAu { s.au with
        replyLost := true, replyLostCount := BitVec.ofNat 8 (min 255 (s.au.replyLostCount.toNat + 1)) })))

/-- While a DEVICE_RESTART is pending, every record handed on is discarded without a reply: valid ones and
rejected ones (R166). -/
def Obligations.PendingRestartDiscardsRecords : Prop :=
  ∀ s : State, s.hli.inReset = false → s.hli.hrxdLow = false → s.hli.framer = .hunt → s.hli.restartPending = true →
    (∀ (k : ReqKind) (tag : Byte) (body : List Byte), body.length ≤ 248 → exec (k.command tag body) s = .next s) ∧
    ∀ raw, rejectedBytes raw = true → exec (.rejection raw) s = .next s

/-- A partial record is discarded without a reply at an inter-byte gap, a stop-bit error and a break: the framer is in
HUNT and nothing else of the part has changed, except that after an error or a break no byte of a record is taken until
HRXD has returned high (R156 to R158). -/
def Obligations.PartialRecordDiscarded : Prop :=
  ∀ (s : State) (taken : List Byte),
    s.hli.inReset = false → s.hli.hrxdLow = false → s.hli.framer = .hunt → partialBytes taken = true →
    exec (.interByteGapExpiry taken) s = .next s ∧
      exec (.hostStopBitError taken) s = .next (s.setHli { s.hli with hrxdLow := true }) ∧
      exec (.hostLinkBreak taken) s = .next (s.setHli { s.hli with hrxdLow := true }) ∧
      let low := s.setHli { s.hli with hrxdLow := true }
      (∀ (k : ReqKind) (tag : Byte) (body : List Byte), exec (k.command tag body) low = .next low) ∧
        exec .hrxdReturnsHigh low = .next s

/-- HRDY asserted: a busy transmitter goes on; an idle one starts the head of the ready-reply queue, whose request
becomes SENDING; with no reply ready it sends the notice of the first eligible instance, or stays idle. A notice has tag
00h and kind F0h, and the code, the location and the data that Tables 63, 65 and 69 give each of the eleven conditions
(R174). HRDY deasserted changes the level and nothing else (R163, R172). -/
def Obligations.HrdyLetsTheTransmitterChoose : Prop :=
  ∀ s : State, s.hli.inReset = false →
    let u := s.setHli { s.hli with hrdy := true }
    let line := fun l : Line => match l with | .a => 0x00#8 | .b => 0x01#8
    let slot := fun i : Slot => BitVec.ofNat 8 i.val
    let free := BitVec.ofNat 16 s.store.freeCells.length
    let state := fun i : Slot => match (s.drop i).state with
      | .vacant => 0x00#8 | .joining => 0x01#8 | .online => 0x02#8 | .suspect => 0x03#8 | .lost => 0x04#8
      | .retiring => 0x05#8
    let said := fun c : Cond => match c with
      | .restarted => [0x01#8, 0xFF#8, 0x01#8]
      | .lineFault l => [0x02#8, line l, BitVec.ofNat 8 (s.lc l).failCount]
      | .failover l => [0x03#8, line l, (s.au.line l).moved, (s.au.line l).stranded]
      | .poolHold => [0x04#8, 0xFF#8, hiByte free, loByte free]
      | .poolLow => [0x05#8, 0xFF#8, hiByte free, loByte free]
      | .replyLost => [0x06#8, 0xFF#8, s.au.replyLostCount]
      | .bcastDropped l => [0x07#8, line l, (s.au.line l).dropped]
      | .dropState i => [0x10#8, slot i, state i, (s.drop i).generation]
      | .inboxAlert i => [0x11#8, slot i, (s.drop i).generation]
      | .inboxReady i => [0x12#8, slot i, (s.drop i).generation, BitVec.ofNat 8 (s.drop i).inbox.length]
      | .outboxLow i => [0x13#8, slot i, (s.drop i).generation, BitVec.ofNat 8 (s.drop i).outbox.length]
    exec .hrdyDeasserted s = .next (s.setHli { s.hli with hrdy := false }) ∧
    (s.hli.tx ≠ none → exec .hrdyAsserted s = .next u) ∧
    (s.hli.tx = none →
      (∀ r rest, s.hli.ready = r :: rest →
        exec .hrdyAsserted s = .next (s.setHli { s.hli with
          hrdy := true, tx := some r, ready := rest
          outstanding :=
            if r.origin = .immediate then s.hli.outstanding
            else s.hli.outstanding.map (fun o => if o.tag = r.tag then { o with phase := .sending } else o) })) ∧
      (s.hli.ready = [] → (∀ c, s.eligible c = false) → exec .hrdyAsserted s = .next u) ∧
      ∀ (before after : List Cond) (c : Cond), s.hli.ready = [] → s.selectionOrder = before ++ c :: after →
        s.eligible c = true → (∀ b ∈ before, s.eligible b = false) →
        ∃ t, exec .hrdyAsserted s = .next t ∧
          t.hli = { s.hli with
            hrdy := true
            tx := some { tag := 0x00#8, kind := 0xF0#8, body := said c, origin := .notice } } ∧
          t.setHli s.hli = noticeSent c s)

/-- The last byte of a record sent: a notice frees the transmitter alone, an immediate reply the immediate-reply slot
with it, the reply of a request its outstanding entry; the transmitter then chooses. The OK of a DEVICE_RESTART
brings the device reset, which samples the straps as they stand at that moment (R156, R161, R163, R166, R167). That these
levels are a free value, the next of the model's own readings, is the model's choice, log 12 (DESIGN CHOICE): nothing is said
of them; that the count of moments and the level on HRDY outlast the reset is too, log 3 and log 6. -/
def Obligations.RecordEndFreesWhatItHeld : Prop :=
  ∀ (s : State) (r : OutRecord), s.hli.tx = some r →
    let h := { s.hli with tx := none }
    (r.origin = .notice → exec .recordTransmissionEnd s = .next (startTx (s.setHli h))) ∧
    (r.origin = .immediate →
      exec .recordTransmissionEnd s = .next (startTx (s.setHli { h with immediateUsed := false }))) ∧
    (r.origin = .request →
      exec .recordTransmissionEnd s = .next (startTx (s.setHli { h with
        outstanding := s.hli.outstanding.filter (fun o => o.tag != r.tag) }))) ∧
    (r.origin = .restart →
      let levels := Config.strapLevels s.hli.strapReads
      let sampled : Straps := { rate1 := levels.getLsbD 1, rate0 := levels.getLsbD 0 }
      exec .recordTransmissionEnd s = .next (startTx { State.reset with
        pending := s.pending
        timebase := s.timebase
        hli := { Hli.reset with
          hostRate := sampled, straps := sampled, hrdy := s.hli.hrdy, strapReads := s.hli.strapReads + 1 } }))

/-- A refused request changes nothing but the host link: when a request is answered with a code other than OK, no field
of any block outside the host link has changed. The rules say so for the entry check, DROP_CREATE, DROP_MODIFY, DROP_MOVE,
DROP_RETIRE, MSG_SUBMIT, MSG_RELEASE, MSG_BROADCAST, POOL_MARKS, POLL_NOW, LINE_CONFIG, ATTN_MASK, DEVICE_INFO,
DEVICE_RESTART, ATTN_PEEK, LINE_STATUS, and LINE_START and LINE_STOP in a wrong line state (R22, R35, R38, R44, R54, R81, R96,
R98, R101, R116, R141 to R143, R147, R165, R166, R176, R177); for every other refusal it is the model's reading, log 24
(DEDUCED). -/
def Obligations.RefusedRequestChangesNothing : Prop :=
  ∀ (s t : State) (k : ReqKind) (tag : Byte) (body : List Byte) (code : ReplyCode),
    s.admits tag body = true → code ≠ .ok → exec (k.command tag body) s = .next t → Answers s t tag k code [] →
    t.setHli s.hli = s

/-- A request whose body has a length that Table 68 does not give is answered BAD_LENGTH, whatever else it holds. -/
def Obligations.WrongLengthIsBadLength : Prop :=
  ∀ (s : State) (k : ReqKind) (tag : Byte) (body : List Byte), s.admits tag body = true →
    (match k with
      | .deviceInfo | .deviceRestart | .dropScan | .poolStatus | .attnPeek => body.length ≠ 0
      | .cancel | .dropQuery | .lineStart | .lineStop | .lineReset | .lineStatus => body.length ≠ 1
      | .dropRetire | .msgFetch | .pollNow | .attnMask => body.length ≠ 2
      | .msgRelease | .msgPurge => body.length ≠ 3
      | .dropMove => body.length ≠ 5
      | .poolMarks | .lineConfig => body.length ≠ 6
      | .dropCreate => body.length ≠ 16
      | .dropModify => body.length ≠ 17
      | .msgSubmit => body.length < 3
      | .msgBroadcast => body.length < 2) →
    ∃ t, exec (k.command tag body) s = .next t ∧ Answers s t tag k .badLength [] ∧ t.setHli s.hli = s

/-- The entry check of R22 on every request that quotes a slot and a generation, with a body of a right length: a slot
above 63 gives BAD_VALUE, then a VACANT entry NOT_PRESENT, then another generation STALE. -/
def Obligations.EntryCheckDecides : Prop :=
  ∀ (s : State) (k : ReqKind) (tag slot gen : Byte) (more : List Byte) (code : ReplyCode),
    s.admits tag (slot :: gen :: more) = true →
    (k = .dropModify ∧ more.length = 15 ∨ k = .dropMove ∧ more.length = 3 ∨ k = .msgSubmit ∧ 1 ≤ more.length ∨
      k = .msgFetch ∧ more.length = 0 ∨ k = .msgRelease ∧ more.length = 1 ∨ k = .msgPurge ∧ more.length = 1 ∨
      k = .pollNow ∧ more.length = 0) →
    (64 ≤ slot.toNat ∧ code = .badValue ∨
      (∃ i : Slot, slot.toNat = i.val ∧
        ((s.drop i).state = .vacant ∧ code = .notPresent ∨
          (s.drop i).state ≠ .vacant ∧ (s.drop i).generation ≠ gen ∧ code = .stale))) →
    ∃ t, exec (k.command tag (slot :: gen :: more)) s = .next t ∧ Answers s t tag k code [] ∧ t.setHli s.hli = s

/-! ## Device and Attention Unit requests -/

/-- DEVICE_INFO (R165). -/
def Obligations.DeviceInfoIdentifiesThePart : Prop :=
  ∀ (s : State) (tag : Byte) (body : List Byte), s.admits tag body = true →
    ∃ t, exec (.deviceInfo tag body) s = .next t ∧ t.setHli s.hli = s ∧
      if body = [] then
        Answers s t tag .deviceInfo .ok [0x52#8, 0x64#8, 0x01#8, 64#8, 2#8, 0#8, 1#8, 0#8, 2#8]
      else Answers s t tag .deviceInfo .badLength []

/-- DEVICE_RESTART posts its OK and the restart is pending from that act; the rest of the part goes on as it stood (R166). -/
def Obligations.DeviceRestartPends : Prop :=
  ∀ (s : State) (tag : Byte), s.admits tag [] = true →
    ∃ t, exec (.deviceRestart tag []) s = .next t ∧ t.setHli s.hli = s ∧ t.hli.restartPending = true ∧
      t.hli.records = s.hli.records ++ [{ tag := tag, kind := 0x82#8, body := [0x00#8], origin := .restart }] ∧
      t.hli.requests = s.hli.requests ++ [(tag, 0x02#8)] ∧
      { t.hli with tx := s.hli.tx, ready := s.hli.ready, outstanding := s.hli.outstanding, restartPending := false }
        = s.hli

/-- ATTN_MASK (R177): a closed RESTARTED flag or an undefined flag that is not 0 gives BAD_VALUE and leaves the masks; else
all masks are replaced and the OK carries them. No pending or reported flag, count or pointer changes. -/
def Obligations.AttnMaskReplacesTheMasks : Prop :=
  ∀ (s : State) (tag : Byte) (body : List Byte), s.admits tag body = true →
    ∃ t, exec (.attnMask tag body) s = .next t ∧
      match body with
      | [hi, lo] =>
        let w := halfOf hi lo
        if w.getLsbD 0 = true ∧ w.toNat < 2048 then
          Answers s t tag .attnMask .ok [hi, lo] ∧ t.setHli s.hli = s.setAu { s.au with masks := w }
        else Answers s t tag .attnMask .badValue [] ∧ t.setHli s.hli = s
      | _ => Answers s t tag .attnMask .badLength [] ∧ t.setHli s.hli = s

/-- ATTN_PEEK answers the 80 bytes of Table 71, every flag bit that the table does not define being 0, and changes nothing in
the Attention Unit: no flag, count or pointer. A level is pending while it is true and its reported flag is clear (R168,
R176). -/
def Obligations.AttnPeekShowsTheUnit : Prop :=
  ∀ (s : State) (tag : Byte), s.admits tag [] = true →
    let bit := fun (p : Bool) (n : Nat) => if p then n else 0
    let low := decide (s.store.freeCells.length ≤ s.store.lowMark.toNat)
    let unit := BitVec.ofNat 8 (bit s.au.restarted 1 + bit (s.store.hold && !s.au.holdReported) 2
      + bit s.au.holdReported 4 + bit (low && !s.au.lowReported) 8 + bit s.au.lowReported 16 + bit s.au.replyLost 32)
    let line := fun l : Line =>
      let a := s.au.line l
      let fault := decide ((s.lc l).state = .fault)
      [BitVec.ofNat 8 (bit (fault && !a.faultReported) 1 + bit a.faultReported 2 + bit a.failover 4 + bit a.bcastDropped 8),
        a.moved, a.stranded, a.dropped]
    let slot := fun i : Slot =>
      let a := s.au.slot i
      let ready := (s.drop i).state.live && decide ((s.drop i).inboxTrigger.toNat ≤ (s.drop i).inbox.length)
      BitVec.ofNat 8 (bit a.dropState 1 + bit a.inboxAlert 2 + bit a.outboxLow 4
        + bit (ready && !a.inboxReadyReported) 8 + bit a.inboxReadyReported 16)
    let data := [hiByte s.au.masks, loByte s.au.masks, unit, s.au.replyLostCount] ++ line .a ++ line .b
      ++ (List.finRange 64).map slot
      ++ [BitVec.ofNat 8 s.au.ptrDropState.val, BitVec.ofNat 8 s.au.ptrInboxAlert.val,
          BitVec.ofNat 8 s.au.ptrInboxReady.val, BitVec.ofNat 8 s.au.ptrOutboxLow.val]
    ∃ t, exec (.attnPeek tag []) s = .next t ∧ t.setHli s.hli = s ∧ Answers s t tag .attnPeek .ok data ∧ data.length = 80

/-- Eligibility and selection. An instance is eligible while it is pending and its gate is open: the mask of its code, and
for a per-drop kind the notify flag of its drop; RESTARTED has no gate (R168 to R170). The order of selection is that of
Table 64, each per-drop kind starting at the slot after its scan pointer and going up, from slot 63 on to slot 0 (R172,
R173). ATTN is asserted exactly while some instance is eligible (R171). A notice sent takes its own instance out of the
pending ones, leaves every other instance pending or not as it was, and sets the scan pointer of its kind, and no other,
to its slot; it returns the counts of its instance to 0, sets the reported flag of a level, and changes no other count or
reported flag, no mask, and nothing outside the Attention Unit (R168, R169, R173, R174). -/
def Obligations.AttnShowsEligibility : Prop :=
  (∀ (s : State) (c d : Cond),
    (noticeSent c s).condPending c = false ∧ (d ≠ c → (noticeSent c s).condPending d = s.condPending d)) ∧
  (∀ (s : State) (c : Cond),
    let a := s.au
    let b := (noticeSent c s).au
    b.ptrDropState = (match c with | .dropState i => i | _ => a.ptrDropState) ∧
      b.ptrInboxAlert = (match c with | .inboxAlert i => i | _ => a.ptrInboxAlert) ∧
      b.ptrInboxReady = (match c with | .inboxReady i => i | _ => a.ptrInboxReady) ∧
      b.ptrOutboxLow = (match c with | .outboxLow i => i | _ => a.ptrOutboxLow) ∧
      b.replyLostCount = (if c = .replyLost then 0#8 else a.replyLostCount) ∧
      b.holdReported = (a.holdReported || decide (c = .poolHold)) ∧
      b.lowReported = (a.lowReported || decide (c = .poolLow)) ∧
      (∀ l, (b.line l).moved = (if c = .failover l then 0#8 else (a.line l).moved) ∧
        (b.line l).stranded = (if c = .failover l then 0#8 else (a.line l).stranded) ∧
        (b.line l).dropped = (if c = .bcastDropped l then 0#8 else (a.line l).dropped) ∧
        (b.line l).faultReported = ((a.line l).faultReported || decide (c = .lineFault l))) ∧
      (∀ i, (b.slot i).inboxReadyReported = ((a.slot i).inboxReadyReported || decide (c = .inboxReady i))) ∧
      b.masks = a.masks ∧ noticeSent c s = s.setAu b) ∧
  (∀ s : State,
    let turn := fun (kind : Slot → Cond) (pointer : Slot) => (List.finRange 64).map (fun n => kind (pointer + 1 + n))
    s.selectionOrder =
      [.restarted, .lineFault .a, .lineFault .b, .failover .a, .failover .b, .poolHold, .poolLow, .replyLost,
        .bcastDropped .a, .bcastDropped .b]
      ++ turn .dropState s.au.ptrDropState ++ turn .inboxAlert s.au.ptrInboxAlert
      ++ turn .inboxReady s.au.ptrInboxReady ++ turn .outboxLow s.au.ptrOutboxLow) ∧
  (∀ s : State,
    let open_ := fun n : Nat => s.au.masks.getLsbD n
    let gate := fun (n : Nat) (i : Slot) => open_ n && (s.drop i).notify
    s.eligible .restarted = s.au.restarted ∧
      (∀ l, s.eligible (.lineFault l) = (decide ((s.lc l).state = .fault) && !(s.au.line l).faultReported && open_ 1) ∧
        s.eligible (.failover l) = ((s.au.line l).failover && open_ 2) ∧
        s.eligible (.bcastDropped l) = ((s.au.line l).bcastDropped && open_ 6)) ∧
      s.eligible .poolHold = (s.store.hold && !s.au.holdReported && open_ 3) ∧
      s.eligible .poolLow =
        (decide (s.store.freeCells.length ≤ s.store.lowMark.toNat) && !s.au.lowReported && open_ 4) ∧
      s.eligible .replyLost = (s.au.replyLost && open_ 5) ∧
      ∀ i, s.eligible (.dropState i) = ((s.au.slot i).dropState && gate 7 i) ∧
        s.eligible (.inboxAlert i) = ((s.au.slot i).inboxAlert && gate 8 i) ∧
        s.eligible (.inboxReady i) =
          ((s.drop i).state.live && decide ((s.drop i).inboxTrigger.toNat ≤ (s.drop i).inbox.length)
            && !(s.au.slot i).inboxReadyReported && gate 9 i) ∧
        s.eligible (.outboxLow i) = ((s.au.slot i).outboxLow && gate 10 i)) ∧
  ∀ s : State, s.hli.inReset = false → ((s.attnAsserted = true) ↔ ∃ c, s.eligible c = true)

/-! ## Drop Table requests -/

/-- DROP_CREATE, its checks in the order of R35 and the drop it makes (R36, R37). A value outside its range gives BAD_VALUE.
With every value in the range of Table 20 (for an alert presence of 00h any alert value: the model's reading, log 17,
DEDUCED): a named slot that is not VACANT, or no VACANT slot at all for "any", gives NO_SLOT; then a home place in use
or reserved gives ADDRESS_TAKEN; else the named slot, or the lowest VACANT one, holds the new drop, JOINING at the ring
tail of its home line with a new generation, and no other entry and no other line has changed. The mark of an entry
appended after the ring walk is the model's choice, log 25. -/
def Obligations.DropCreateFillsASlot : Prop :=
  ∀ (s : State) (tag slot : Byte) (b : DropBody) (home : Line) (alt : Option Line) (notify : Bool) (alert : Option Byte),
    let body := [slot, b.address, b.home, b.alternate, b.cls, b.groups, b.retryLimit, b.replyTimeout, b.inboxLimit,
      b.inboxTrigger, b.outboxLimit, b.outboxTrigger, b.maxInbound, b.notify, b.alertPresence, b.alertValue]
    let issued := fun g : Byte => if g.toNat = 0 ∨ g.toNat = 255 then 1#8 else BitVec.ofNat 8 (g.toNat + 1)
    let good :=
      (slot.toNat < 64 ∨ slot = 0xFF#8) ∧ 1 ≤ b.address.toNat ∧ b.address.toNat ≤ 239 ∧
      b.home = lineByte home ∧ b.alternate = optLineByte alt ∧ alt ≠ some home ∧
      1 ≤ b.cls.toNat ∧ b.cls.toNat ≤ 4 ∧ b.groups.toNat < 16 ∧ b.retryLimit.toNat ≤ 7 ∧ 1 ≤ b.replyTimeout.toNat ∧
      1 ≤ b.inboxLimit.toNat ∧ b.inboxLimit.toNat ≤ 16 ∧
      1 ≤ b.inboxTrigger.toNat ∧ b.inboxTrigger.toNat ≤ b.inboxLimit.toNat ∧
      1 ≤ b.outboxLimit.toNat ∧ b.outboxLimit.toNat ≤ 16 ∧ b.outboxTrigger.toNat < b.outboxLimit.toNat ∧
      1 ≤ b.maxInbound.toNat ∧ b.maxInbound.toNat ≤ 224 ∧ b.notify = flagByte notify ∧
      b.alertPresence = flagByte alert.isSome ∧ (∀ v, alert = some v → b.alertValue = v)
    s.admits tag body = true →
    (slot.toNat ≥ 64 ∧ slot ≠ 0xFF#8 ∨ b.address.toNat = 0 ∨ 239 < b.address.toNat ∨ 1 < b.home.toNat ∨
        1 < b.alternate.toNat ∧ b.alternate ≠ 0xFF#8 ∨ b.alternate = b.home ∨ b.cls.toNat = 0 ∨ 4 < b.cls.toNat ∨
        16 ≤ b.groups.toNat ∨ 7 < b.retryLimit.toNat ∨ b.replyTimeout.toNat = 0 ∨ b.inboxLimit.toNat = 0 ∨
        16 < b.inboxLimit.toNat ∨ b.inboxTrigger.toNat = 0 ∨ b.inboxLimit.toNat < b.inboxTrigger.toNat ∨
        b.outboxLimit.toNat = 0 ∨ 16 < b.outboxLimit.toNat ∨ b.outboxLimit.toNat ≤ b.outboxTrigger.toNat ∨
        b.maxInbound.toNat = 0 ∨ 224 < b.maxInbound.toNat ∨ 1 < b.notify.toNat ∨ 1 < b.alertPresence.toNat →
      ∃ t, exec (.dropCreate tag body) s = .next t ∧ TurnedAway s t tag .dropCreate .badValue) ∧
    (good →
      ∃ t, exec (.dropCreate tag body) s = .next t ∧
        ((∀ i : Slot, slot.toNat = i.val ∨ slot = 0xFF#8 → (s.drop i).state ≠ .vacant) →
          Answers s t tag .dropCreate .noSlot [] ∧ t.setHli s.hli = s) ∧
        ∀ i : Slot, (s.drop i).state = .vacant →
          slot.toNat = i.val ∨ slot = 0xFF#8 ∧ (∀ j < i, (s.drop j).state ≠ .vacant) →
          ((∃ j, (s.drop j).holds home b.address = true) →
            Answers s t tag .dropCreate .addressTaken [] ∧ t.setHli s.hli = s) ∧
          ((∀ j, (s.drop j).holds home b.address = false) →
            Answers s t tag .dropCreate .ok [BitVec.ofNat 8 i.val, issued (s.drop i).generation] ∧
            t.setHli s.hli = (s.setDrop i
              { state := .joining, generation := issued (s.drop i).generation, address := b.address,
                homeLine := home, currentLine := home, alternate := alt, cls := b.cls, groups := b.groups,
                retryLimit := b.retryLimit, replyTimeout := b.replyTimeout, inboxLimit := b.inboxLimit,
                inboxTrigger := b.inboxTrigger, outboxLimit := b.outboxLimit, outboxTrigger := b.outboxTrigger,
                maxInbound := b.maxInbound, notify := notify, alertByte := alert, missCount := 0, errorTotal := 0,
                nextOutId := 0, nextInId := 0, pendingMove := none,
                link := { resyncNeeded := true, seqOut := false, expectedIn := false, inFlight := false, segIndex := 0 },
                outbox := [], headLock := false, settleWait := false, inbox := [], partialMsg := none }).modLc home
              (fun c => c.ringAppend i b.cls)))

/-- An appended drop stands at the ring tail. In the ring walk it gets its due mark at once by class and round number, and
a cursor at the end names it; after the walk a cursor at the end stays at the end (R103, R104, R108), and the mark it holds
until the next round gives it one is clear: the model's choice, log 25.
A removed drop leaves ring, probe list or urgent queue where it stands, the rest in order; the cursor names the entry it
named, or the one that followed it when it is the one removed; a drop that does not stand there changes nothing (R103 to
R106). A visit deferred to the removed entry is no longer deferred: that this happens at the removal is the model's
reading, log 9 (DEDUCED). -/
def Obligations.RingAppendAndRemovalFollowTheWalk : Prop :=
  (∀ (c : LineCtl) (i : Slot) (cls : Byte), c.cursor ≤ c.ring.length →
    (c.ringAppend i cls).ring =
        c.ring ++ [{ slot := i, due := c.phase = .ringWalk ∧ c.roundNumber.toNat % 2 ^ (cls.toNat - 1) = 0 }] ∧
      (c.cursor < c.ring.length → (c.ringAppend i cls).cursor = c.cursor) ∧
      (c.cursor = c.ring.length →
        (c.ringAppend i cls).cursor =
          (if c.phase = .ringWalk then c.ring.length else (c.ringAppend i cls).ring.length)) ∧
      { c.ringAppend i cls with ring := c.ring, cursor := c.cursor } = c) ∧
  ∀ (c : LineCtl) (i : Slot),
    ((∀ e ∈ c.ring, e.slot ≠ i) → c.ringRemove i = c) ∧
    (∀ (before after : List RingEntry) (e : RingEntry), c.ring = before ++ e :: after → e.slot = i →
      (∀ x ∈ before, x.slot ≠ i) →
      c.ringRemove i = { c with
        ring := before ++ after
        cursor := if before.length < c.cursor then c.cursor - 1 else c.cursor
        deferred := if before.length = c.cursor ∧ c.deferred = .ring then .clear else c.deferred }) ∧
    (i ∉ c.probeList → c.probeRemove i = c) ∧
    (∀ before after : List Slot, c.probeList = before ++ i :: after → i ∉ before →
      c.probeRemove i = { c with
        probeList := before ++ after
        deferred := if before = [] ∧ c.deferred = .probe then .clear else c.deferred }) ∧
    (i ∉ c.urgent → c.urgentRemove i = c) ∧
    ∀ before after : List Slot, c.urgent = before ++ i :: after → i ∉ before →
      c.urgentRemove i = { c with urgent := before ++ after }

/-- DROP_MODIFY of a RETIRING entry gives WRONG_STATE; then a present field outside its range gives BAD_VALUE. With every
present field in range (for a present alert byte of presence 00h any value: the model's reading, log 17, DEDUCED) and every
relation of Table 21 kept, the present fields take their new values, and every other field of the entry, every other entry
and every line stay as they are; with a relation broken the reply is BAD_VALUE (R38, R39). -/
def Obligations.DropModifyReplacesPresentFields : Prop :=
  ∀ (s : State) (tag slot gen ph pl cls grp alt retry tmo inLim inTrig outLim outTrig maxIn ntf ap av : Byte) (i : Slot)
    (d : Drop),
    let body := [slot, gen, ph, pl, cls, grp, alt, retry, tmo, inLim, inTrig, outLim, outTrig, maxIn, ntf, ap, av]
    let e := s.drop i
    let has := fun n => (halfOf ph pl).getLsbD n
    s.admits tag body = true → s.quotes slot gen i →
    (e.state = .retiring →
      ∃ t, exec (.dropModify tag body) s = .next t ∧ TurnedAway s t tag .dropModify .wrongState) ∧
    (e.state ≠ .retiring →
      4096 ≤ (halfOf ph pl).toNat ∨ has 0 = true ∧ (cls.toNat = 0 ∨ 4 < cls.toNat) ∨ has 1 = true ∧ 16 ≤ grp.toNat ∨
        has 2 = true ∧ 1 < alt.toNat ∧ alt ≠ 0xFF#8 ∨ has 3 = true ∧ 7 < retry.toNat ∨ has 4 = true ∧ tmo.toNat = 0 ∨
        has 5 = true ∧ (inLim.toNat = 0 ∨ 16 < inLim.toNat) ∨ has 6 = true ∧ inTrig.toNat = 0 ∨
        has 7 = true ∧ (outLim.toNat = 0 ∨ 16 < outLim.toNat) ∨ has 9 = true ∧ (maxIn.toNat = 0 ∨ 224 < maxIn.toNat) ∨
        has 10 = true ∧ 1 < ntf.toNat ∨ has 11 = true ∧ 1 < ap.toNat →
      ∃ t, exec (.dropModify tag body) s = .next t ∧ TurnedAway s t tag .dropModify .badValue) ∧
    (e.state ≠ .retiring → (halfOf ph pl).toNat < 4096 →
    (has 0 = true → 1 ≤ cls.toNat ∧ cls.toNat ≤ 4) → (has 1 = true → grp.toNat < 16) →
    (has 2 = true → alt = 0xFF#8 ∨ alt = 0x00#8 ∨ alt = 0x01#8) → (has 3 = true → retry.toNat ≤ 7) →
    (has 4 = true → 1 ≤ tmo.toNat) → (has 5 = true → 1 ≤ inLim.toNat ∧ inLim.toNat ≤ 16) →
    (has 6 = true → 1 ≤ inTrig.toNat) → (has 7 = true → 1 ≤ outLim.toNat ∧ outLim.toNat ≤ 16) →
    (has 9 = true → 1 ≤ maxIn.toNat ∧ maxIn.toNat ≤ 224) → (has 10 = true → ntf.toNat ≤ 1) →
    (has 11 = true → ap.toNat ≤ 1) →
    d = { e with
      cls := if has 0 then cls else e.cls
      groups := if has 1 then grp else e.groups
      alternate := if has 2 then (if alt = 0x00#8 then some .a else if alt = 0x01#8 then some .b else none)
        else e.alternate
      retryLimit := if has 3 then retry else e.retryLimit
      replyTimeout := if has 4 then tmo else e.replyTimeout
      inboxLimit := if has 5 then inLim else e.inboxLimit
      inboxTrigger := if has 6 then inTrig else e.inboxTrigger
      outboxLimit := if has 7 then outLim else e.outboxLimit
      outboxTrigger := if has 8 then outTrig else e.outboxTrigger
      maxInbound := if has 9 then maxIn else e.maxInbound
      notify := if has 10 then ntf = 0x01#8 else e.notify
      alertByte := if has 11 then (if ap = 0x01#8 then some av else none) else e.alertByte } →
    ∃ t, exec (.dropModify tag body) s = .next t ∧
      (d.alternate ≠ some d.homeLine ∧ d.inboxTrigger.toNat ≤ d.inboxLimit.toNat ∧
          d.outboxTrigger.toNat < d.outboxLimit.toNat ∧ d.inboundCount ≤ d.inboxLimit.toNat ∧
          d.outbox.length ≤ d.outboxLimit.toNat →
        Answers s t tag .dropModify .ok [] ∧ t.drop i = d ∧ SameDropsBut i s t ∧
          t.store = s.store ∧ t.lcA = s.lcA ∧ t.lcB = s.lcB ∧ t.retire = s.retire ∧
          (t.au.slot i).inboxReadyReported = ((s.au.slot i).inboxReadyReported && d.inboxReady) ∧
          (∀ j, j ≠ i → t.au.slot j = s.au.slot j)) ∧
      (d.alternate = some d.homeLine ∨ d.inboxLimit.toNat < d.inboxTrigger.toNat ∨
          d.outboxLimit.toNat ≤ d.outboxTrigger.toNat ∨ d.inboxLimit.toNat < d.inboundCount ∨
          d.outboxLimit.toNat < d.outbox.length →
        Answers s t tag .dropModify .badValue [] ∧ t.setHli s.hli = s))

/-- DROP_QUERY of a slot 0 to 63 answers the 30 bytes of Table 70 and changes nothing (R42). -/
def Obligations.DropQueryShowsTheEntry : Prop :=
  ∀ (s : State) (tag slot : Byte) (i : Slot), s.admits tag [slot] = true → slot.toNat = i.val →
    let d := s.drop i
    ∃ t, exec (.dropQuery tag [slot]) s = .next t ∧ t.setHli s.hli = s ∧
      Answers s t tag .dropQuery .ok
        [d.state.code, d.generation, d.address, lineByte d.homeLine, lineByte d.currentLine, optLineByte d.alternate,
         d.cls, d.groups, d.retryLimit, d.replyTimeout, d.inboxLimit, d.inboxTrigger, d.outboxLimit, d.outboxTrigger,
         d.maxInbound, flagByte d.notify, flagByte d.alertByte.isSome, d.alertByte.getD 0x00#8, d.missCount,
         hiByte d.errorTotal, loByte d.errorTotal, d.nextOutId, d.nextInId, BitVec.ofNat 8 d.inbox.length,
         flagByte d.partialMsg.isSome, BitVec.ofNat 8 d.outbox.length,
         flagByte (d.inbox.any (fun m => m.status != .intact)),
         optLineByte (d.pendingMove.map PendingMove.line), (d.pendingMove.map PendingMove.address).getD 0x00#8,
         flagByte d.link.inFlight]

/-- DROP_SCAN (R43): a body that is not empty gives BAD_LENGTH; else 64 pairs of state and generation in slot order, and
nothing changes. -/
def Obligations.DropScanListsTheTable : Prop :=
  ∀ (s : State) (tag : Byte) (body : List Byte), s.admits tag body = true →
    ∃ t, exec (.dropScan tag body) s = .next t ∧ t.setHli s.hli = s ∧
      (body ≠ [] → Answers s t tag .dropScan .badLength []) ∧
      (body = [] → ∃ data : List Byte, Answers s t tag .dropScan .ok data ∧ data.length = 128 ∧
        ∀ i : Slot, data[2 * i.val]? = some (s.drop i).state.code ∧
          data[2 * i.val + 1]? = some (s.drop i).generation)

/-- The reply code of a DROP_MOVE that is refused after its length and entry checks: the checks of R44 in order. -/
def Obligations.DropMoveChecksInOrder : Prop :=
  ∀ (s : State) (tag slot gen line addr flags : Byte) (i : Slot),
    let body := [slot, gen, line, addr, flags]
    let d := s.drop i
    let valuesGood := line.toNat ≤ 1 ∧ 1 ≤ addr.toNat ∧ addr.toNat ≤ 239 ∧ flags.toNat ≤ 3
    s.admits tag body = true → s.quotes slot gen i →
    ∃ t, exec (.dropMove tag body) s = .next t ∧
      (d.state = .retiring ∨ d.pendingMove ≠ none →
        Answers s t tag .dropMove .wrongState [] ∧ t.setHli s.hli = s) ∧
      (d.state ≠ .retiring → d.pendingMove = none →
        (¬ valuesGood → Answers s t tag .dropMove .badValue [] ∧ t.setHli s.hli = s) ∧
        ∀ l : Line, line = lineByte l → valuesGood →
          (flags.getLsbD 0 = false → l = d.currentLine → addr = d.address →
            Answers s t tag .dropMove .same [] ∧ t.setHli s.hli = s) ∧
          (¬ (flags.getLsbD 0 = false ∧ l = d.currentLine ∧ addr = d.address) →
            ((s.lc l).state = .fault → Answers s t tag .dropMove .lineUnavailable [] ∧ t.setHli s.hli = s) ∧
            ((s.lc l).state ≠ .fault → (∃ j, j ≠ i ∧ (s.drop j).holds l addr = true) →
              Answers s t tag .dropMove .addressTaken [] ∧ t.setHli s.hli = s)))

/-- An accepted DROP_MOVE of a drop that is not in flight is applied in the act: the drop leaves its line's collections and
stands JOINING at the ring tail of the target with a reset link record, its partial message cut off with the INBOX_ALERT of
the cut-off (R93, R94), its miss count 0 and its home and alternate line by Table 24; every other entry, their attention
instances and the store stay, and the reply is OK. Of a drop in flight
it is held: only the pending move is stored, and no reply is posted (R48 to R51). A visit deferred to the drop where it stood
on its old line is no longer deferred: that the flag is cleared at this removal is the model's reading, log 9 (DEDUCED);
the mark of an entry appended after the ring walk is its choice, log 25. -/
def Obligations.DropMoveAppliedOrHeld : Prop :=
  ∀ (s : State) (tag slot gen addr flags : Byte) (l : Line) (i : Slot),
    let body := [slot, gen, lineByte l, addr, flags]
    let d := s.drop i
    let home := flags.getLsbD 1
    s.admits tag body = true → s.quotes slot gen i → d.state ≠ .retiring → d.pendingMove = none →
    1 ≤ addr.toNat ∧ addr.toNat ≤ 239 → flags.toNat ≤ 3 →
    flags.getLsbD 0 = true ∨ l ≠ d.currentLine ∨ addr ≠ d.address → (s.lc l).state ≠ .fault →
    (∀ j, j ≠ i → (s.drop j).holds l addr = false) →
    (d.link.inFlight = true →
      exec (.dropMove tag body) s = .next (startTx ((s.setDrop i
        { d with pendingMove := some { line := l, address := addr, setHome := home, tag := tag } }).setHli
        { s.hli with
          outstanding := s.hli.outstanding ++ [{ tag := tag, kind := 0x14#8, phase := .working }] }))) ∧
    (d.link.inFlight = false →
      ∃ t, exec (.dropMove tag body) s = .next t ∧ Answers s t tag .dropMove .ok [] ∧ SameDropsBut i s t ∧
        t.store = s.store ∧ t.retire = s.retire ∧
        t.drop i = { d with
            currentLine := l, address := addr, state := .joining, missCount := 0, settleWait := false
            link := { resyncNeeded := true, seqOut := false, expectedIn := false, inFlight := false, segIndex := 0 }
            homeLine := if home then l else d.homeLine
            alternate := if home ∧ d.alternate = some l then some d.homeLine else d.alternate
            inbox := (t.drop i).inbox, nextInId := (t.drop i).nextInId, partialMsg := none } ∧
        CutOff d (t.drop i) ∧ t.au.slot i = (s.au.slot i).afterCut d (t.drop i) ∧ SameAttnBut i s t ∧
        (∀ m, m ≠ l → m ≠ d.currentLine → t.lc m = s.lc m) ∧
        t.lc l = (if l = d.currentLine then (((s.lc l).ringRemove i).probeRemove i).urgentRemove i else s.lc l).ringAppend
          i d.cls ∧
        (l ≠ d.currentLine →
          t.lc d.currentLine = (((s.lc d.currentLine).ringRemove i).probeRemove i).urgentRemove i))

/-- DROP_RETIRE: a range that leaves the table or is empty gives BAD_VALUE, then a retire operation in progress WRONG_STATE
(R54). A range in which every slot is VACANT or holds a drop that is not in flight is retired in the act: each of its
drops has become a VACANT entry with its generation and every other field cleared, has left ring, probe list and urgent
queue of its line, in slot order, its cells and records are free and its attention instances clear; the other entries
stay, the operation is over and the reply is OK with the count (R54 to R58). That a visit deferred to a retired drop is no
longer deferred from its removal on is the model's reading: log 9 (DEDUCED). The order in which one drop's cells and
records join the free lists, inbox, partial message, outbox, is the model's choice: log 14 (DESIGN CHOICE). -/
def Obligations.DropRetireOfAnIdleRange : Prop :=
  ∀ (s : State) (tag first count : Byte), s.admits tag [first, count] = true →
    let inRange := fun i : Slot => first.toNat ≤ i.val ∧ i.val < first.toNat + count.toNat
    let good := 1 ≤ count.toNat ∧ first.toNat + count.toNat ≤ 64
    let retired := (List.finRange 64).filter (fun i => decide (inRange i) && (s.drop i).state.live)
    ∃ t, exec (.dropRetire tag [first, count]) s = .next t ∧
      (¬ good → TurnedAway s t tag .dropRetire .badValue) ∧
      (good → s.retire ≠ none → TurnedAway s t tag .dropRetire .wrongState) ∧
      (good → s.retire = none →
        (∀ i, inRange i → (s.drop i).state = .vacant ∨
          (s.drop i).state.live = true ∧ (s.drop i).link.inFlight = false ∧ (s.drop i).pendingMove = none) →
        Answers s t tag .dropRetire .ok [count] ∧ t.retire = none ∧
          (∀ i ∈ retired, t.drop i = .vacant (s.drop i).generation ∧ t.au.slot i = .clear) ∧
          (∀ i ∉ retired, t.drop i = s.drop i ∧ t.au.slot i = s.au.slot i) ∧
          (∀ l, t.lc l = (retired.filter (fun i => decide ((s.drop i).currentLine = l))).foldl
            (fun c i => ((c.ringRemove i).probeRemove i).urgentRemove i) (s.lc l)) ∧
          t.store.freeCells = s.store.freeCells
            ++ retired.flatMap (fun i => (s.drop i).inboundCells ++ (s.drop i).outboxCells) ∧
          t.store.freeRecords = s.store.freeRecords
            ++ retired.flatMap (fun i => (s.drop i).inboundRecs ++ (s.drop i).outboxRecs) ∧
          t.store.bcasts = s.store.bcasts)

/-- DROP_RETIRE of a good range starts the retire operation, which goes on by R55 to R58 (RetireGoesOn): slot by slot, VACANT
slots and idle drops complete in the act, and it waits at the first drop in flight, or ends with OK. In particular, when slots
that are VACANT or hold an idle drop precede the first drop in flight: the operation waits at that drop, with next slot and
completed number there; the idle drops before it are VACANT entries with their generations; that drop is RETIRING, without
messages and without its pending move; all of these are off their lines' collections in slot order, their cells and records
free, their attention instances clear and their pending moves answered ABORTED; the other entries stay. That a visit deferred
to such a drop is no longer deferred from its removal on is the model's reading: log 9 (DEDUCED). The order in which one
drop's cells and records join the free lists, inbox, partial message, outbox, is the model's choice: log 14 (DESIGN
CHOICE). -/
def Obligations.DropRetireWaitsForAVisit : Prop :=
  ∀ (s : State) (tag first count : Byte), s.admits tag [first, count] = true → s.retire = none →
    1 ≤ count.toNat → first.toNat + count.toNat ≤ 64 →
    let op : RetireOp :=
      { tag := tag, first := first.toNat, count := count.toNat, next := first.toNat, completed := 0, cancelTag := none }
    let admitted := s.setHli { s.hli with
      outstanding := s.hli.outstanding ++ [{ tag := tag, kind := 0x15#8, phase := .working }] }
    ∃ t, exec (.dropRetire tag [first, count]) s = .next (startTx t) ∧ RetireGoesOn op admitted t ∧
      ∀ k : Slot, first.toNat ≤ k.val → k.val < first.toNat + count.toNat → (s.drop k).state.live = true →
        (s.drop k).link.inFlight = true →
        (∀ i : Slot, first.toNat ≤ i.val → i < k →
          (s.drop i).state = .vacant ∨ (s.drop i).state.live = true ∧ (s.drop i).link.inFlight = false) →
        let retired := (List.finRange 64).filter (fun i =>
          decide (first.toNat ≤ i.val ∧ i.val < k.val) && (s.drop i).state.live)
        let begun := retired ++ [k]
        t.retire = some { op with next := k.val, completed := k.val - first.toNat } ∧
        t.drop k = { s.drop k with
          state := .retiring, pendingMove := none, outbox := [], headLock := false, settleWait := false, inbox := []
          partialMsg := none } ∧
        (∀ i ∈ retired, t.drop i = .vacant (s.drop i).generation) ∧ (∀ i ∈ begun, t.au.slot i = .clear) ∧
        (∀ i ∉ begun, t.drop i = s.drop i ∧ t.au.slot i = s.au.slot i) ∧ (∀ l, t.au.line l = s.au.line l) ∧
        (∀ l, t.lc l = (begun.filter (fun i => decide ((s.drop i).currentLine = l))).foldl
          (fun c i => ((c.ringRemove i).probeRemove i).urgentRemove i) (s.lc l)) ∧
        t.store.freeCells = s.store.freeCells
          ++ begun.flatMap (fun i => (s.drop i).inboundCells ++ (s.drop i).outboxCells) ∧
        t.store.freeRecords = s.store.freeRecords
          ++ begun.flatMap (fun i => (s.drop i).inboundRecs ++ (s.drop i).outboxRecs) ∧
        t.store.bcasts = s.store.bcasts ∧
        t.hli.records = s.hli.records ++ (begun.filterMap (fun i => (s.drop i).pendingMove)).map
          (fun p => { tag := p.tag, kind := 0x94#8, body := [0x40#8], origin := .request })

/-- CANCEL: a target tag 00h gives BAD_VALUE. The tag of a pending move withdraws it: ABORTED to the move and then OK to
the CANCEL, and nothing else of any entry or line changes. The tag of a retire operation not yet cancelled marks it, with
no reply yet. Any other tag gives NOT_FOUND (R59 to R61). -/
def Obligations.CancelWithdrawsWhatWaits : Prop :=
  ∀ (s : State) (tag target : Byte), s.admits tag [target] = true →
    ∃ t, exec (.cancel tag [target]) s = .next t ∧
      (target = 0#8 → Answers s t tag .cancel .badValue [] ∧ t.setHli s.hli = s) ∧
      (target ≠ 0#8 →
        (∀ (i : Slot) (p : PendingMove), (s.drop i).pendingMove = some p → p.tag = target →
          (∀ j, j ≠ i → ∀ q, (s.drop j).pendingMove = some q → q.tag ≠ target) →
          t.hli.records = s.hli.records ++
              [{ tag := target, kind := 0x94#8, body := [0x40#8], origin := .request },
               { tag := tag, kind := 0x83#8, body := [0x00#8], origin := .request }] ∧
            t.setHli s.hli = s.setDrop i { s.drop i with pendingMove := none }) ∧
        ((∀ (j : Slot) (q : PendingMove), (s.drop j).pendingMove = some q → q.tag ≠ target) →
          (∀ op, s.retire = some op → op.tag = target → op.cancelTag = none →
            exec (.cancel tag [target]) s = .next (startTx ((s.setRetire (some { op with cancelTag := some tag })).setHli
              { s.hli with
                outstanding := s.hli.outstanding ++ [{ tag := tag, kind := 0x03#8, phase := .working }] }))) ∧
          ((∀ op, s.retire = some op → op.tag ≠ target ∨ op.cancelTag ≠ none) →
            Answers s t tag .cancel .notFound [] ∧ t.setHli s.hli = s)))

/-! ## Message Store requests -/

/-- The place of a new message in the outbox (R83): a non-urgent one at the tail; an urgent one directly behind the last
message that is urgent or the locked head, and at the head when there is none. -/
def Obligations.OutboxInsertionFollowsUrgency : Prop :=
  ∀ (locked : Bool) (m : OutMsg) (q : List OutMsg),
    (m.urgent = false → outboxInsert locked m q = q ++ [m]) ∧
      (m.urgent = true → ∃ before after, q = before ++ after ∧ outboxInsert locked m q = before ++ m :: after ∧
        (∀ x ∈ after, x.urgent = false) ∧ (locked = true → q ≠ [] → before ≠ []) ∧
        (before = [] ∨ (∃ x, before.getLast? = some x ∧ x.urgent = true) ∨ locked = true ∧ before.length = 1))

/-- MSG_SUBMIT that passes its checks: the message takes the next outbound id, the first free record and the first
ceil(L/32) free cells with the payload in them, 32 bytes in each but the last (R84), and joins the outbox by R83; an urgent one enters its drop in the urgent
queue when the line takes it and there is room. No other entry, line or request state changes (R68, R96, R117). -/
def Obligations.MsgSubmitQueuesTheMessage : Prop :=
  ∀ (s : State) (tag slot gen flags : Byte) (payload : List Byte) (i : Slot) (r : Nat) (rest : List Nat),
    let d := s.drop i
    let n := (payload.length + 31) / 32
    s.admits tag (slot :: gen :: flags :: payload) = true → s.quotes slot gen i → d.state ≠ .retiring →
    flags.toNat ≤ 1 → 1 ≤ payload.length → payload.length ≤ 224 → d.outbox.length < d.outboxLimit.toNat →
    s.store.hold = false → n ≤ s.store.freeCells.length → s.store.freeRecords = r :: rest →
    ∃ (t : State) (m : OutMsg), exec (.msgSubmit tag (slot :: gen :: flags :: payload)) s = .next t ∧
      Answers s t tag .msgSubmit .ok [d.nextOutId] ∧
      m.recNo = r ∧ m.id = d.nextOutId ∧ m.urgent = flags.getLsbD 0 ∧ m.chain.map Cell.no = s.store.freeCells.take n ∧
      m.chain.flatMap Cell.data = payload ∧ (∀ c ∈ m.chain, 1 ≤ c.data.length ∧ c.data.length ≤ 32) ∧
      (∀ c ∈ m.chain.dropLast, c.data.length = 32) ∧
      t.drop i = { d with outbox := outboxInsert d.headLock m d.outbox, nextOutId := d.nextOutId + 1 } ∧
      SameDropsBut i s t ∧ t.store.freeCells = s.store.freeCells.drop n ∧ t.store.freeRecords = rest ∧
      t.store.bcasts = s.store.bcasts ∧ t.retire = s.retire ∧
      (∀ l, t.lc l = if l = d.currentLine ∧ flags.getLsbD 0 = true ∧
            ((s.lc l).state = .running ∨ (s.lc l).state = .stopping ∨ (s.lc l).state = .stopped) ∧
            i ∉ (s.lc l).urgent ∧ (s.lc l).urgent.length < 8
          then { s.lc l with urgent := (s.lc l).urgent ++ [i] } else s.lc l)

/-- The reply code of a MSG_SUBMIT that passes its entry check: the checks of R96 in their order. -/
def Obligations.MsgSubmitChecksInOrder : Prop :=
  ∀ (s : State) (tag slot gen flags : Byte) (payload : List Byte) (i : Slot) (code : ReplyCode),
    let d := s.drop i
    let body := slot :: gen :: flags :: payload
    s.admits tag body = true → s.quotes slot gen i →
    code = (if d.state = .retiring then .wrongState
      else if 1 < flags.toNat then .badValue
      else if payload.length = 0 ∨ 224 < payload.length then .badLength
      else if d.outboxLimit.toNat ≤ d.outbox.length then .queueFull
      else if s.store.hold = true then .poolHeld
      else if s.store.freeCells.length < (payload.length + 31) / 32 ∨ s.store.freeRecords = [] then .poolExhausted
      else .ok) → code ≠ .ok →
    ∃ t, exec (.msgSubmit tag body) s = .next t ∧ Answers s t tag .msgSubmit code [] ∧ t.setHli s.hli = s

/-- MSG_FETCH (R97): INBOX_EMPTY while no complete message is there; else the head message with its id, status, mark,
segment count, length and payload, whose fetched flag is set. Nothing else changes. -/
def Obligations.MsgFetchReturnsTheHead : Prop :=
  ∀ (s : State) (tag slot gen : Byte) (i : Slot), s.admits tag [slot, gen] = true → s.quotes slot gen i →
    ∃ t, exec (.msgFetch tag [slot, gen]) s = .next t ∧
      ((s.drop i).inbox = [] → Answers s t tag .msgFetch .inboxEmpty [] ∧ t.setHli s.hli = s) ∧
      ∀ m rest, (s.drop i).inbox = m :: rest →
        Answers s t tag .msgFetch .ok
            ([m.id.getD 0#8, m.status.code, flagByte m.alertMark, m.segCount, BitVec.ofNat 8 m.payload.length] ++ m.payload) ∧
          t.setHli s.hli = s.setDrop i { s.drop i with inbox := { m with fetched := true } :: rest }

/-- MSG_RELEASE (R98): a fetched inbox head whose id is quoted leaves the inbox and its cells and record go to the tails of
the free lists; in every other case the reply is NOT_FETCHED and nothing changes. -/
def Obligations.MsgReleaseFreesTheFetchedHead : Prop :=
  ∀ (s : State) (tag slot gen id : Byte) (i : Slot), s.admits tag [slot, gen, id] = true → s.quotes slot gen i →
    ∃ t, exec (.msgRelease tag [slot, gen, id]) s = .next t ∧
      ((∀ m rest, (s.drop i).inbox = m :: rest → m.id ≠ some id ∨ m.fetched = false) →
        Answers s t tag .msgRelease .notFetched [] ∧ t.setHli s.hli = s) ∧
      ∀ m rest, (s.drop i).inbox = m :: rest → m.id = some id → m.fetched = true →
        Answers s t tag .msgRelease .ok [] ∧ t.drop i = { s.drop i with inbox := rest } ∧ SameDropsBut i s t ∧
          t.store.freeCells = s.store.freeCells ++ m.chain.map Cell.no ∧
          t.store.freeRecords = s.store.freeRecords ++ [m.recNo] ∧ t.store.bcasts = s.store.bcasts ∧
          t.store.hold = holdAfter s.store.hold (s.store.freeCells.length + m.chain.length) s.store.holdMark
            s.store.resumeMark ∧
          (∀ l, t.lc l = s.lc l) ∧ t.retire = s.retire ∧
          ((t.au.slot i).inboxReadyReported = true → (s.au.slot i).inboxReadyReported = true) ∧
          ((t.drop i).inboxReady = false → (t.au.slot i).inboxReadyReported = false)

/-- MSG_PURGE (R99): another selector gives BAD_VALUE and changes nothing; else the selected queues are emptied, with the
counts in the reply; a purged outbox has its segment index 0 and its lock clear, with the settle wait set for a locked
head that needs no RESYNC (R87); and the discarded cells and records are free. The order in which they join the free lists,
inbox, partial message, outbox, is the model's choice: log 14 (DESIGN CHOICE). -/
def Obligations.MsgPurgeEmptiesTheSelected : Prop :=
  ∀ (s : State) (tag slot gen sel : Byte) (i : Slot), s.admits tag [slot, gen, sel] = true → s.quotes slot gen i →
    let d := s.drop i
    let inb := sel = 0x01#8 ∨ sel = 0x03#8
    let outb := sel = 0x02#8 ∨ sel = 0x03#8
    ∃ t, exec (.msgPurge tag [slot, gen, sel]) s = .next t ∧
      (¬ inb ∧ ¬ outb → Answers s t tag .msgPurge .badValue [] ∧ t.setHli s.hli = s) ∧
      (inb ∨ outb →
        Answers s t tag .msgPurge .ok
            [if inb then BitVec.ofNat 8 d.inboundCount else 0#8, if outb then BitVec.ofNat 8 d.outbox.length else 0#8] ∧
          t.drop i = { d with
            inbox := if inb then [] else d.inbox
            partialMsg := if inb then none else d.partialMsg
            outbox := if outb then [] else d.outbox
            headLock := if outb then false else d.headLock
            settleWait := if outb then d.settleWait || (d.headLock && !d.link.resyncNeeded) else d.settleWait
            link := if outb then { d.link with segIndex := 0 } else d.link } ∧
          SameDropsBut i s t ∧ (∀ l, t.lc l = s.lc l) ∧ t.retire = s.retire ∧ t.store.bcasts = s.store.bcasts ∧
          t.store.freeCells = s.store.freeCells ++ (if inb then d.inboundCells else []) ++ (if outb then d.outboxCells else []) ∧
          t.store.freeRecords = s.store.freeRecords ++ (if inb then d.inboundRecs else []) ++ (if outb then d.outboxRecs else []) ∧
          ((t.au.slot i).outboxLow = true ↔
            (s.au.slot i).outboxLow = true ∨ outb ∧ d.outboxTrigger.toNat < d.outbox.length))

/-- MSG_BROADCAST that passes its checks: one record and one cell hold the payload, the broadcast stands at the tail of the
queue of each selected line and of no other, and no entry and no line changes otherwise (R70, R100, R101). -/
def Obligations.MsgBroadcastQueuesOnEachLine : Prop :=
  ∀ (s : State) (tag set target : Byte) (payload : List Byte) (g : Target) (c r : Nat) (cs rs : List Nat),
    let on := fun l : Line => if l = .a then set.getLsbD 0 else set.getLsbD 1
    let body := set :: target :: payload
    s.admits tag body = true → 1 ≤ set.toNat ∧ set.toNat ≤ 3 →
    target = (match g with
      | .group1 => 0x01#8 | .group2 => 0x02#8 | .group3 => 0x03#8 | .group4 => 0x04#8 | .all => 0xFF#8) →
    1 ≤ payload.length → payload.length ≤ 32 →
    (∀ l, on l = true → (s.lc l).state ≠ .disabled ∧ (s.lc l).state ≠ .fault ∧ (s.bcastQueue l).length < 4) →
    s.store.hold = false → s.store.freeCells = c :: cs → s.store.freeRecords = r :: rs →
    let m : Bcast :=
      { recNo := r, cell := { no := c, data := payload }, target := g, onA := set.getLsbD 0, onB := set.getLsbD 1 }
    ∃ t, exec (.msgBroadcast tag body) s = .next t ∧ Answers s t tag .msgBroadcast .ok [] ∧
      (∀ l, t.bcastQueue l = s.bcastQueue l ++ (if on l then [m] else [])) ∧ t.store.bcasts = s.store.bcasts ++ [m] ∧
      t.store.freeCells = cs ∧ t.store.freeRecords = rs ∧ SameDrops s t ∧ (∀ l, t.lc l = s.lc l) ∧ t.retire = s.retire

/-- The reply code of a MSG_BROADCAST that is refused after its length check: the checks of R101 in their order. -/
def Obligations.MsgBroadcastChecksInOrder : Prop :=
  ∀ (s : State) (tag set target : Byte) (payload : List Byte) (code : ReplyCode),
    let on := fun l : Line => if l = .a then set.getLsbD 0 else set.getLsbD 1
    let shut := fun l : Line => on l && ((s.lc l).state == .disabled || (s.lc l).state == .fault)
    let full := fun l : Line => on l && decide (4 ≤ (s.bcastQueue l).length)
    let body := set :: target :: payload
    s.admits tag body = true →
    code = (if set.toNat = 0 ∨ 3 < set.toNat ∨ target.toNat = 0 ∨ 4 < target.toNat ∧ target.toNat ≠ 255 then .badValue
      else if payload.length = 0 ∨ 32 < payload.length then .badLength
      else if shut .a || shut .b then .lineUnavailable
      else if full .a || full .b then .queueFull
      else if s.store.hold = true then .poolHeld
      else if s.store.freeCells = [] ∨ s.store.freeRecords = [] then .poolExhausted
      else .ok) → code ≠ .ok →
    ∃ t, exec (.msgBroadcast tag body) s = .next t ∧ Answers s t tag .msgBroadcast code [] ∧ t.setHli s.hli = s

/-- POOL_STATUS answers the eleven items of Table 35 and changes nothing (R80). -/
def Obligations.PoolStatusShowsTheStore : Prop :=
  ∀ (s : State) (tag : Byte), s.admits tag [] = true →
    let two := fun n : Nat => [hiByte (BitVec.ofNat 16 n), loByte (BitVec.ofNat 16 n)]
    let total := fun f : Drop → Nat => ((List.finRange 64).map (fun i => f (s.drop i))).sum
    ∃ t, exec (.poolStatus tag []) s = .next t ∧ t.setHli s.hli = s ∧
      Answers s t tag .poolStatus .ok
        (two s.store.freeCells.length ++ two s.store.freeRecords.length
          ++ two (total (fun d => (d.outbox.flatMap OutMsg.chain).length))
          ++ two (total (fun d => (d.inbox.flatMap InMsg.chain).length))
          ++ two (total (fun d => (d.partialMsg.toList.flatMap InMsg.chain).length)) ++ two s.store.bcasts.length
          ++ two s.store.holdMark.toNat ++ two s.store.resumeMark.toNat ++ two s.store.lowMark.toNat
          ++ [flagByte s.store.hold, flagByte (s.store.freeCells.length ≤ s.store.lowMark.toNat)])

/-- POOL_MARKS (R81): marks out of range, or a hold mark not below the resume mark, give BAD_VALUE and change nothing; else
the three marks are replaced, the hold state is evaluated on them and the free count, and the OK carries it. No cell, no
entry and no line changes. -/
def Obligations.PoolMarksReplaceAndEvaluate : Prop :=
  ∀ (s : State) (tag hh hl rh rl lh ll : Byte), s.admits tag [hh, hl, rh, rl, lh, ll] = true →
    let h := halfOf hh hl
    let r := halfOf rh rl
    let l := halfOf lh ll
    let hold :=
      if s.store.freeCells.length ≤ h.toNat then true
      else if r.toNat ≤ s.store.freeCells.length then false else s.store.hold
    ∃ t, exec (.poolMarks tag [hh, hl, rh, rl, lh, ll]) s = .next t ∧
      (511 < h.toNat ∨ 512 < r.toNat ∨ 512 < l.toNat ∨ r.toNat ≤ h.toNat →
        Answers s t tag .poolMarks .badValue [] ∧ t.setHli s.hli = s) ∧
      (h.toNat ≤ 511 → r.toNat ≤ 512 → l.toNat ≤ 512 → h.toNat < r.toNat →
        Answers s t tag .poolMarks .ok [flagByte hold] ∧
          t.store = { s.store with holdMark := h, resumeMark := r, lowMark := l, hold := hold } ∧
          t.au = { s.au with
            holdReported := s.au.holdReported && hold
            lowReported := s.au.lowReported && decide (s.store.freeCells.length ≤ l.toNat) } ∧
          SameDrops s t ∧ (∀ m, t.lc m = s.lc m) ∧ t.retire = s.retire)

/-! ## Line requests -/

/-- LINE_CONFIG (R141): the checks in order, and the replacement of the five items with the reload of the probe
countdown. Nothing else changes. -/
def Obligations.LineConfigFollowsItsChecks : Prop :=
  ∀ (s : State) (tag : Byte) (body : List Byte), s.admits tag body = true →
    ∃ t, exec (.lineConfig tag body) s = .next t ∧
      match body with
      | [line, rate, gap, period, probe, threshold] =>
        let good := rate.toNat ≤ 5 ∧ 2 ≤ gap.toNat ∧ gap.toNat ≤ 32 ∧ 1 ≤ probe.toNat ∧ 2 ≤ threshold.toNat ∧
          threshold.toNat ≤ 32
        (1 < line.toNat → TurnedAway s t tag .lineConfig .badValue) ∧
        ∀ l, line = lineByte l →
          let accepting := (s.lc l).state = .disabled ∨ (s.lc l).state = .stopped ∧ (s.lc l).bcastFrame = none
          (¬ accepting → TurnedAway s t tag .lineConfig .wrongState) ∧
          (accepting → ¬ good → TurnedAway s t tag .lineConfig .badValue) ∧
          (accepting → good →
            Answers s t tag .lineConfig .ok [] ∧
              t.setHli s.hli = s.setLc l { s.lc l with
                cfg := { rateCode := rate, gap := gap, roundPeriod := period, probeInterval := probe,
                         faultThreshold := threshold }
                probeCountdown := probe })
      | _ => TurnedAway s t tag .lineConfig .badLength

/-- LINE_START by the state of the line (R142): from DISABLED a new round begins with the round number as it stands,
from STOPPED and FAULT the round position stands, RUNNING changes nothing, STOPPING gives WRONG_STATE. The held gap
measurement ends with the line counting as idle: the model's reading, log 13. Its count of moments is log 3. -/
def Obligations.LineStartByLineState : Prop :=
  ∀ (s : State) (tag : Byte) (body : List Byte), s.admits tag body = true →
    ∃ t, exec (.lineStart tag body) s = .next t ∧
      match body with
      | [line] =>
        (1 < line.toNat → TurnedAway s t tag .lineStart .badValue) ∧
        ∀ l, line = lineByte l →
          let c := s.lc l
          let started := { c with state := .running, failCount := 0, gapHeld := false }
          (c.state = .stopping → TurnedAway s t tag .lineStart .wrongState) ∧
          (c.state = .running → Answers s t tag .lineStart .ok [] ∧ t.setHli s.hli = s) ∧
          (c.state = .stopped → Answers s t tag .lineStart .ok [] ∧ t.setHli s.hli = s.setLc l started) ∧
          (c.state = .fault → Answers s t tag .lineStart .ok [] ∧ t.lineFault l = false ∧
            t.setHli s.hli = (s.setLc l started).modLineAttn l (fun a => { a with faultReported := false })) ∧
          (c.state = .disabled → Answers s t tag .lineStart .ok [] ∧
            t.setHli s.hli = (s.setTimebase (s.timebase + 1)).setLc l { started with
              ring := c.ring.map (fun e =>
                { e with due := c.roundNumber.toNat % 2 ^ ((s.drop e.slot).cls.toNat - 1) = 0 })
              cursor := 0, phase := .ringWalk, roundStart := s.timebase + 1, roundElapsed := 0, probeStep := false
              deferred := .clear, idleServed := false })
      | _ => TurnedAway s t tag .lineStart .badLength

/-- LINE_STOP (R143): with no visit record the RUNNING line is STOPPED at once and the reply is OK, with its round position
kept but for the deferred flag, and with the phase PROBE when a broadcast was taken for the window (R110); with a visit
record the line is STOPPING and the request waits, the line holding its tag; in every other state WRONG_STATE. -/
def Obligations.LineStopStopsOrWaits : Prop :=
  ∀ (s : State) (tag : Byte) (body : List Byte), s.admits tag body = true →
    ∃ t, exec (.lineStop tag body) s = .next t ∧
      match body with
      | [line] =>
        (1 < line.toNat → TurnedAway s t tag .lineStop .badValue) ∧
        ∀ l, line = lineByte l →
          let c := s.lc l
          (c.state ≠ .running → TurnedAway s t tag .lineStop .wrongState) ∧
          (c.state = .running → c.visit = none →
            Answers s t tag .lineStop .ok [] ∧
              t.setHli s.hli = s.setLc l { c with
                state := .stopped, deferred := .clear, phase := if c.bcastFrame = none then c.phase else .probe }) ∧
          (c.state = .running → c.visit ≠ none →
            t = startTx ((s.setLc l { c with state := .stopping, stopTag := some tag }).setHli { s.hli with
              outstanding := s.hli.outstanding ++ [{ tag := tag, kind := 0x32#8, phase := .working }] }))
      | _ => TurnedAway s t tag .lineStop .badLength

/-- LINE_RESET: a line byte other than A and B gives BAD_VALUE, a wrong length BAD_LENGTH; else the parts of R145 in order.
Up to part 5 (LineCut): the visit and a BCAST frame are cut off, the urgent queue is empty, the broadcasts are off the line,
those that wait on no line freed and BCAST_DROPPED raised with their number, and the round position at its start, with
configuration, ring and probe list kept; each living drop of the line has its link record reset, its partial message cut
off with INBOX_ALERT by its mark, and its miss count 0, and an ONLINE or SUSPECT one is JOINING with DROP_STATE raised; the other drops and the other
line stay. Part 6 (CutVisitSettled): a RETIRING drop of the cut visit leaves a VACANT entry and its retire operation goes
on slot by slot (RetireGoesOn), and a pending move is applied or abandoned, with its reply. Parts 7 and 8 (LineDisabled): ABORTED to an outstanding
LINE_STOP, the line DISABLED, and then the OK (R53, R55, R57, R93, R94, R102, R107, R110, R136, R145, R146). That the round start time and
the due marks stand is the model's choice, log 27; so are the order in which several broadcasts freed at once and one drop's
cells and records join the free lists, log 14, and the mark of an entry appended after the walk, log 25 (DESIGN CHOICE). That
the deferred flag is cleared at a removal is its reading, log 9 (DEDUCED). -/
def Obligations.LineResetDisablesTheLine : Prop :=
  ∀ (s : State) (tag : Byte) (body : List Byte), s.admits tag body = true →
    ∃ t, exec (.lineReset tag body) s = .next (startTx t) ∧
      match body with
      | [line] =>
        (1 < line.toNat → TurnedAway s (startTx t) tag .lineReset .badValue) ∧
        ∀ l, line = lineByte l →
          let admitted := s.setHli { s.hli with
            outstanding := s.hli.outstanding ++ [{ tag := tag, kind := 0x33#8, phase := .working }] }
          ∃ u w, LineCut l admitted u ∧ CutVisitSettled (s.lc l).visit u w ∧ LineDisabled l tag w t
      | _ => TurnedAway s (startTx t) tag .lineReset .badLength

/-- LINE_STATUS (R147): a snapshot of the line with the thirteen items of Table 56, and nothing changes. -/
def Obligations.LineStatusShowsTheLine : Prop :=
  ∀ (s : State) (tag : Byte) (body : List Byte), s.admits tag body = true →
    ∃ t, exec (.lineStatus tag body) s = .next t ∧
      match body with
      | [line] =>
        (1 < line.toNat → TurnedAway s t tag .lineStatus .badValue) ∧
        ∀ l, line = lineByte l →
          let c := s.lc l
          t.setHli s.hli = s ∧
          Answers s t tag .lineStatus .ok
            [c.state.code, c.cfg.rateCode, c.cfg.gap, c.cfg.roundPeriod, c.cfg.probeInterval, c.cfg.faultThreshold,
             c.roundNumber, BitVec.ofNat 8 c.ring.length, BitVec.ofNat 8 c.probeList.length,
             BitVec.ofNat 8 c.urgent.length, BitVec.ofNat 8 (s.bcastQueue l).length, BitVec.ofNat 8 c.failCount,
             match c.visit with
             | none => 0xFF#8
             | some v => BitVec.ofNat 8 v.slot.val]
      | _ => TurnedAway s t tag .lineStatus .badLength

/-- POLL_NOW (R116): the checks in order, the append at the tail of the urgent queue of the drop's current line, and the OK
with the number of drops in it. -/
def Obligations.PollNowEntersTheUrgentQueue : Prop :=
  ∀ (s : State) (tag : Byte) (body : List Byte), s.admits tag body = true →
    ∃ t, exec (.pollNow tag body) s = .next t ∧
      match body with
      | [slot, gen] =>
        (64 ≤ slot.toNat → TurnedAway s t tag .pollNow .badValue) ∧
        ∀ i : Slot, slot.toNat = i.val →
          let d := s.drop i
          let c := s.lc d.currentLine
          let shut := c.state = .disabled ∨ c.state = .fault
          (d.state = .vacant → TurnedAway s t tag .pollNow .notPresent) ∧
          (d.state ≠ .vacant → d.generation ≠ gen → TurnedAway s t tag .pollNow .stale) ∧
          (d.state ≠ .vacant → d.generation = gen →
            (shut → TurnedAway s t tag .pollNow .lineUnavailable) ∧
            (¬ shut → d.state = .retiring → TurnedAway s t tag .pollNow .wrongState) ∧
            (¬ shut → d.state ≠ .retiring →
              (i ∈ c.urgent → Answers s t tag .pollNow .ok [BitVec.ofNat 8 c.urgent.length] ∧ t.setHli s.hli = s) ∧
              (i ∉ c.urgent → 8 ≤ c.urgent.length → TurnedAway s t tag .pollNow .queueFull) ∧
              (i ∉ c.urgent → c.urgent.length < 8 →
                Answers s t tag .pollNow .ok [BitVec.ofNat 8 (c.urgent.length + 1)] ∧
                  t.setHli s.hli = s.setLc d.currentLine { c with urgent := c.urgent ++ [i] })))
      | _ => TurnedAway s t tag .pollNow .badLength

/-! ## Rounds -/

/-- VISIT_START on a free RUNNING line. A probe window that was interrupted is taken up first (LineCtl.probeTakenUp): with its
step clear the countdown is lowered, and reloaded with a probe due when it comes to 0 and the probe list is not empty; with
its step done and the list empty it ends; the choice is then made on the phase that leaves. In the ring walk entries not due are passed over; at the first due entry a head of
the urgent queue other than its drop is visited first, once, with the ring visit deferred; else the drop receives its ring
visit and the cursor moves past it. A probe due in the probe window contends in the same way. In the idle period the head
of the urgent queue is visited until the period is over: until at least one urgent visit has been made in it and the round
period of the line is known to have elapsed since its round start time. With no due entry left, in the broadcast window, and
in the idle period with nothing urgent or once it is over, no visit starts (R107, R109 to R114; that the cursor moves then all the same is the
model's reading, log 21; that this act takes up the probe window is its choice, log 26; that a line whose BCAST frame waits
in its gap is not free is too, log 28; its reckoning of time is log 3). -/
def Obligations.VisitStartChoosesTheNextVisit : Prop :=
  ∀ (r : State) (l : Line), r.lineFree l →
    let c := (r.lc l).probeTakenUp
    let s := r.setLc l c
    let ahead := c.ring.drop c.cursor
    (c.phase = .ringWalk →
      (∀ (before after : List RingEntry) (e : RingEntry), ahead = before ++ e :: after →
        (∀ b ∈ before, b.due = false) → e.due = true →
        (∀ u us, c.deferred ≠ .ring → c.urgent = u :: us → u ≠ e.slot →
          exec (.visitStart l) r = .next (s.visitBegun l u .urgent (c.cursor + before.length) .ring c.idleServed)) ∧
        (c.deferred = .ring ∨ c.urgent = [] ∨ c.urgent.head? = some e.slot →
          exec (.visitStart l) r =
            .next (s.visitBegun l e.slot .ring (c.cursor + before.length + 1) .clear c.idleServed))) ∧
      ((∀ e ∈ ahead, e.due = false) →
        exec (.visitStart l) r = .next (s.setLc l { c with cursor := c.cursor + ahead.length }))) ∧
    (c.phase = .broadcast → exec (.visitStart l) r = .next s) ∧
    (c.phase = .probe → ∀ i is, c.probeList = i :: is →
      (∀ u us, c.deferred ≠ .probe → c.urgent = u :: us → u ≠ i →
        exec (.visitStart l) r = .next (s.visitBegun l u .urgent c.cursor .probe c.idleServed)) ∧
      (c.deferred = .probe ∨ c.urgent = [] ∨ c.urgent.head? = some i →
        exec (.visitStart l) r = .next (s.visitBegun l i .probe c.cursor .clear c.idleServed))) ∧
    (c.phase = .idle →
      let ended := c.idleServed = true ∧ c.cfg.roundPeriod.toNat ≤ c.roundElapsed
      (c.urgent = [] ∨ ended → exec (.visitStart l) r = .next s) ∧
      ∀ u us, c.urgent = u :: us → ¬ ended →
        exec (.visitStart l) r = .next (s.visitBegun l u .urgent c.cursor .clear true))

/-- The frame of a visit (R121, R122, Table 10): a RESYNC with the groups while resync-needed is set, else a DELIVER of the
next segment, else a POLL; with its SEQ, NEXT, HOLD, FIRST, LAST and length bits, and the CRC over all that precedes it. -/
def Obligations.FrameFollowsTheLinkRecord : Prop :=
  ∀ (s : State) (i : Slot),
    let d := s.drop i
    let b := s.buildFrame i
    let closed := fun bytes : List Byte => bytes ++ [hiByte (crc16 bytes), loByte (crc16 bytes)]
    let bit := fun (p : Bool) (n : Nat) => if p then n else 0
    let hold := s.store.hold || d.inbox.length + (if d.partialMsg.isSome then 1 else 0) == d.inboxLimit.toNat
    let ctrl := fun (kind : Nat) (seq : Bool) =>
      BitVec.ofNat 8 (kind + bit seq 8 + bit d.link.expectedIn 4 + bit hold 2)
    (d.link.resyncNeeded = true →
      b.kind = .resync ∧ b.delivered = none ∧ b.bytes = closed [d.address, 0x30#8, 0x01#8, d.groups]) ∧
    (d.link.resyncNeeded = false → d.outbox = [] ∨ d.settleWait = true →
      b.kind = .poll ∧ b.delivered = none ∧ b.bytes = closed [d.address, ctrl 0x10 false, 0x00#8]) ∧
    (d.link.resyncNeeded = false → d.settleWait = false → ∀ m rest cell, d.outbox = m :: rest →
      m.chain[d.link.segIndex]? = some cell → cell.data.length ≤ 32 →
      b.kind = .deliver ∧ b.delivered = some { id := m.id, seg := d.link.segIndex } ∧
        b.bytes = closed (d.address :: ctrl 0x20 d.link.seqOut ::
          BitVec.ofNat 8 (bit (d.link.segIndex = 0) 128 + bit (d.link.segIndex + 1 = m.chain.length) 64 + cell.data.length)
          :: cell.data))

/-- The broadcast and the probe window and the end of a round. At the end of the ring walk an empty broadcast queue opens the
probe window at once; else the head of the queue leaves it for a BCAST frame that waits for its gap, and is freed when no
other line holds it. The end of the frame opens the probe window of a line still in its broadcast window. The idle period
ends, when the urgent queue has had its due, in a new round with the next round number and due marks by class (R107 to
R113). The reckoning of time is the model's choice, log 3: a new round begins at the next moment, with no time passed
since; and since the round that ends has lasted its period, that much more time has passed for a round of the other
line that began before it, and none is known to have passed for one that began after it. That ROUND_PERIOD_ELAPSED
first takes up a probe window that was interrupted (LineCtl.probeTakenUp), and ends the idle period it may leave, is
the model's choice, log 26, and so is that a line whose BCAST frame waits in its gap is not free, log 28; in any other
phase it changes nothing. That the probe countdown is lowered in the act that ends the broadcast window is the model's
reading, log 10 (DEDUCED). The BCAST frame is the target's address, kind 4h with its other CTRL bits 0, FIRST, LAST
and the length, the payload and the CRC, in characters of even parity (R1, R6, R102, R180). -/
def Obligations.RoundGoesThroughItsWindows : Prop :=
  ∀ (s : State) (l : Line), StoreConserved s →
    let c := s.lc l
    let ended := { c with cursor := max c.cursor c.ring.length }
    let marked := fun e : RingEntry =>
      { e with due := (c.roundNumber + 1#8).toNat % 2 ^ ((s.drop e.slot).cls.toNat - 1) = 0 }
    (s.lineFree l → c.phase = .ringWalk → (∀ e ∈ c.ring.drop c.cursor, e.due = false) →
      (s.bcastQueue l = [] → exec (.broadcastWindow l) s = .next (startTx (s.setLc l ended.probeOpened))) ∧
      ∀ b rest, s.bcastQueue l = b :: rest →
        ∃ t, exec (.broadcastWindow l) s = .next t ∧
          t.lc l = { ended with phase := .broadcast, bcastFrame := some { chars := b.frame.map cleanChar, sending := false } } ∧
          (b.cell.data.length ≤ 32 →
            let addr := match b.target with
              | .group1 => 0xF1#8 | .group2 => 0xF2#8 | .group3 => 0xF3#8 | .group4 => 0xF4#8 | .all => 0xFF#8
            let body := addr :: 0x40#8 :: BitVec.ofNat 8 (192 + b.cell.data.length) :: b.cell.data
            b.frame = body ++ [hiByte (crc16 body), loByte (crc16 body)]) ∧
          t.bcastQueue l = rest ∧
          t.bcastQueue l.other = (s.bcastQueue l.other).map (fun x => if x = b then x.off l else x) ∧
          t.store.freeCells = s.store.freeCells ++ (if b.on l.other then [] else [b.cell.no]) ∧
          t.store.freeRecords = s.store.freeRecords ++ (if b.on l.other then [] else [b.recNo]) ∧
          t.lc l.other = s.lc l.other ∧ SameDrops s t ∧ t.retire = s.retire) ∧
    (∀ f, s.hli.inReset = false → c.bcastFrame = some f → f.sending = true →
      exec (.bcastFrameEnd l) s = .next (s.setLc l
        (if c.phase = .broadcast then { c with bcastFrame := none }.probeOpened else { c with bcastFrame := none }))) ∧
    (s.lineFree l →
      let p := c.probeTakenUp
      (p.phase ≠ .idle ∨ p.urgent ≠ [] ∧ p.idleServed = false → exec (.roundPeriodElapsed l) s = .next s) ∧
      let d := s.lc l.other
      let passed := if d.roundStart < p.roundStart then
        { d with roundElapsed := d.roundElapsed + p.cfg.roundPeriod.toNat } else d
      (p.phase = .idle → p.urgent = [] ∨ p.idleServed = true →
        exec (.roundPeriodElapsed l) s =
          .next (((s.setTimebase (s.timebase + 1)).setLc l.other passed).setLc l { p with
            roundNumber := p.roundNumber + 1#8
            ring := p.ring.map marked
            cursor := 0, phase := .ringWalk, roundStart := s.timebase + 1, roundElapsed := 0, probeStep := false
            deferred := .clear, idleServed := false })))

/-! ## Visits -/

/-- An attempt is sent when the turnaround gap has elapsed or at the gap-wait limit: the visit is in SEND with one more
attempt made, or the BCAST frame is being sent; a measurement held by a low input does not elapse. At the end of the frame
the visit is in REPLY and the receiver awaits a reply. The input returning high ends what a stop-bit error held (R15, R16,
R124, log 13). -/
def Obligations.AttemptIsSentAfterItsGap : Prop :=
  ∀ (s : State) (l : Line), s.hli.inReset = false →
    let c := s.lc l
    let sends := fun t : State =>
      exec (.gapWaitLimitExpiry l) s = .next t ∧ (c.gapHeld = false → exec (.turnaroundGapElapsed l) s = .next t)
    (∀ v, c.visit = some v → v.phase = .gap →
      sends (s.setLc l { c with visit := some { v with phase := .send, attempts := v.attempts + 1 } })) ∧
    (∀ f, c.visit = none → c.bcastFrame = some f →
      sends (s.setLc l { c with bcastFrame := some { f with sending := true } })) ∧
    (c.gapHeld = true → exec (.turnaroundGapElapsed l) s = .next s) ∧
    (∀ v, c.visit = some v → v.phase = .send →
      exec (.frameSent l) s =
        .next (s.setLc l { c with visit := some { v with phase := .reply }, receiver := .awaitingReply })) ∧
    exec (.fieldReceiveInputReturnsHigh l) s = .next (s.setLc l { c with rxLow := false, gapHeld := false })

/-- An attempt that fails by the reply timeout, by a gap inside the reply, or at any character of the reply (parity or stop
bit, address, kind, length and flags, CRC; R17), alone or in a whole reply, adds 1 to the drop's error total, up to 65535.
With attempts left the visit is back in GAP and nothing else changes, but that a low stop bit holds the input low (log 13).
At the last attempt the visit has failed, and the parts of R133 follow in order. The report adds 1 to the miss count and gives the state by
Table 18; a drop that becomes LOST has the effects of R30, the INBOX_ALERT of its cut-off included (FailureReported). A pending move is applied or abandoned
(MoveSettled), the consecutive-fail count and the fault check follow, with fault entry and failover at the threshold
(FaultChecked, EntersFault), and the line is free, STOPPED when it was STOPPING (LineFreed). A RETIRING drop becomes VACANT
and its retire operation goes on slot by slot or ends (RetiringVisitClosed, RetireGoesOn). Below the threshold a running line goes on; at it the line
is in FAULT, with no JOINING, ONLINE or SUSPECT drop left on it and its urgent and broadcast queues empty (R17, R24, R29,
R30, R52, R57 to R60, R125, R133 to R135, R144, R149 to R155). The model's readings: a probe visit ends the probe window
also on a line that stops (log 11), and the deferred flag is cleared at a removal (log 9); its choices: the order in which
broadcasts freed at once and one drop's cells join the free lists (log 14), the mark of an entry appended after the walk (log 25). -/
def Obligations.FailedAttemptRetriesOrEndsTheVisit : Prop :=
  ∀ (s u : State) (l : Line) (v : Visit) (cmd : Instr), s.hli.inReset = false → (s.lc l).visit = some v →
    (u = s ∧ cmd = .replyTimeout l ∧ (s.lc l).receiver = .awaitingReply ∨
      u = s ∧ cmd = .intraFrameGapExpiry l ∧ (∃ got, (s.lc l).receiver = .receiving got) ∨
      ∃ (got : List Byte) (ch : FieldChar), v.expects got ∧ v.failsAt got ch ∧ u = s.heard l got ch ∧
        (s.receives l v got ∧ cmd = .fieldCharacterReceived l ch ∨
          s.awaits l v ∧ ∃ rest : List Byte, cmd = .replyFrameReceived l (got.map cleanChar ++ ch :: rest.map cleanChar))) →
    let d := s.drop v.slot
    let c := u.lc l
    let errors := BitVec.ofNat 16 (min 65535 (d.errorTotal.toNat + 1))
    let miss := min 255 (d.missCount.toNat + 1)
    let counts := v.stateAtStart = .online ∨ v.stateAtStart = .suspect
    let fails := c.failCount + (if counts then 1 else 0)
    (v.attempts < v.attemptLimit →
      exec cmd s = .next (startTx ((u.setDrop v.slot { d with errorTotal := errors }).setLc l
        { c with visit := some { v with phase := .gap }, receiver := .notWaiting }))) ∧
    (v.attemptLimit ≤ v.attempts → d.state.live = true →
      ∃ t, VisitClosed l v none (u.setDrop v.slot { d with errorTotal := errors }) t ∧ exec cmd s = .next (startTx t)) ∧
    (v.attemptLimit ≤ v.attempts → d.state = .retiring →
      ∃ t, RetiringVisitClosed l v (u.setDrop v.slot { d with errorTotal := errors }) t ∧
        exec cmd s = .next (startTx t)) ∧
    (v.attemptLimit ≤ v.attempts → d.state.live = true → d.currentLine = l → d.pendingMove = none →
      c.state = .running →
      ∃ t, exec cmd s = .next t ∧ (t.lc l).visit = none ∧ (t.lc l).receiver = .notWaiting ∧ (t.lc l).failCount = fails ∧
        (t.drop v.slot).errorTotal = errors ∧ (t.drop v.slot).link.inFlight = false ∧ t.retire = s.retire ∧
        (fails < c.cfg.faultThreshold.toNat →
          (t.lc l).state = .running ∧ SameDropsBut v.slot s t ∧ t.lc l.other = s.lc l.other ∧
          (t.drop v.slot).missCount.toNat = miss ∧
          (t.drop v.slot).state =
            (if 3 ≤ miss ∨ d.state = .lost then .lost else if d.state = .joining then .joining else .suspect) ∧
          (t.drop v.slot).outbox = d.outbox) ∧
        (c.cfg.faultThreshold.toNat ≤ fails →
          (t.lc l).state = .fault ∧ (t.lc l).urgent = [] ∧ t.bcastQueue l = [] ∧
          ∀ i : Slot, (t.drop i).currentLine = l → (t.drop i).state ≠ .joining ∧ (t.drop i).state ≠ .online ∧
            (t.drop i).state ≠ .suspect))

/-- One character on a field line. While the part drives the line, and while no reply is awaited, it changes nothing but
that a low stop bit holds the input low (log 13); while the input is held low nothing arrives. A character of a reply that
is awaited or begun joins the bytes received when it passes its tests and is not the last. It fails the attempt when it has
a parity or stop-bit error, when its byte is not the drop's address (the first), a kind that Table 12 allows (the second) or
a length and flags that agree with the kind (the third), and when it ends the reply and the CRC differs; with attempts left
the visit is then back in GAP (R1, R8, R15 to R17). -/
def Obligations.FieldCharacterIsTakenOrDiscarded : Prop :=
  (∀ (s : State) (l : Line) (ch : FieldChar), s.hli.inReset = false →
    let c := s.lc l
    let held := if ch.stop then c else { c with rxLow := true, gapHeld := true }
    (c.rxLow = true → exec (.fieldCharacterReceived l ch) s = .next (startTx s)) ∧
    (c.rxLow = false → c.visit = none ∨ c.receiver = .notWaiting ∨ s.driving l = true →
      exec (.fieldCharacterReceived l ch) s = .next (startTx (s.setLc l held)))) ∧
  ∀ (s : State) (l : Line) (v : Visit) (got : List Byte) (ch : FieldChar), s.receives l v got → v.expects got →
    let u := s.heard l got ch
    let bytes := got ++ [ch.data]
    (¬ v.failsAt got ch → replyLength bytes ≠ some bytes.length →
      exec (.fieldCharacterReceived l ch) s = .next (startTx (s.setLc l { s.lc l with receiver := .receiving bytes }))) ∧
    (v.failsAt got ch → v.attempts < v.attemptLimit →
      exec (.fieldCharacterReceived l ch) s = .next (startTx ((u.setDrop v.slot { s.drop v.slot with
          errorTotal := BitVec.ofNat 16 (min 65535 ((s.drop v.slot).errorTotal.toNat + 1)) }).setLc l
        { u.lc l with visit := some { v with phase := .gap }, receiver := .notWaiting })))

/-- A whole valid reply, or its last character, ends the visit as a success at once (R126), with the parts of R133. The
reply is processed by its kind (R127, ReplyProcessed): a DATA, EMPTY or BUSY by its NEXT, as an acceptance or a decline
(R128, R129), then, for DATA, by its segment, offered to the store when its SEQ is new, with the flip of expected in when the
store accepts it (R130), and then by its MORE (R118); a RESYNC_ACK (R131); a RESYNC_REQ (R132), with the INBOX_ALERT of the
cut-off (R94). The report (R27, R28), the
pending move, the fault check and the freed line follow, STOPPED when it was STOPPING (R52, R144, R149, VisitClosed). Of a
reply to a RETIRING drop nothing is processed (R135), and its retire operation goes on (RetireGoesOn). In particular, on a RUNNING line with no pending move, for a
RESYNC_ACK and for an EMPTY to a DELIVER: the line is free with its consecutive-fail count 0, the miss count is 0 and the
drop is in flight no longer; a RESYNC_ACK makes the drop ONLINE; an EMPTY whose NEXT differs from SEQ out flips it and
advances the segment index, or frees the message when the segment was its last; with NEXT equal to SEQ out the outbox and
the toggles stay (R87). The model's readings: the deferred flag is cleared at a removal (log 9), and a probe visit ends the
probe window also on a line that stops (log 11); its choices: the mark of an entry appended after the walk (log 25), the
order in which one drop's cells join the free lists (log 14). -/
def Obligations.ValidReplyEndsTheVisit : Prop :=
  (∀ (s : State) (l : Line) (v : Visit) (f : DropFrame) (spare : Bool) (cmd : Instr),
    let bit := fun (p : Bool) (n : Nat) => if p then n else 0
    let kind := match f.kind with | .data => 8 | .empty => 9 | .busy => 10 | .resyncAck => 11 | .resyncReq => 12
    let ctrl := BitVec.ofNat 8 (16 * kind + bit f.seq 8 + bit f.next 4 + bit f.more 2 + bit spare 1)
    let segf := BitVec.ofNat 8 (bit f.first 128 + bit f.last 64 + f.payload.length)
    let body := v.address :: ctrl :: segf :: f.payload
    let frame := body ++ [hiByte (crc16 body), loByte (crc16 body)]
    let began := s.setLc l { s.lc l with receiver := .receiving frame.dropLast }
    (s.awaits l v ∧ cmd = .replyFrameReceived l (frame.map cleanChar) ∨
      s.receives l v frame.dropLast ∧ cmd = .fieldCharacterReceived l (cleanChar (loByte (crc16 body)))) →
    (match v.kind with
      | .poll => f.kind = .data ∨ f.kind = .empty ∨ f.kind = .resyncReq
      | .deliver => f.kind = .data ∨ f.kind = .empty ∨ f.kind = .busy ∨ f.kind = .resyncReq
      | .resync => f.kind = .resyncAck) →
    (f.kind = .data → 1 ≤ f.payload.length ∧ f.payload.length ≤ 32) →
    (f.kind ≠ .data → f.first = false ∧ f.last = false ∧ f.payload = []) →
    ((s.drop v.slot).state.live = true →
      ∃ u t, ReplyProcessed l v f began u ∧ VisitClosed l v (some f) u t ∧ exec cmd s = .next (startTx t)) ∧
    ((s.drop v.slot).state = .retiring →
      ∃ t, RetiringVisitClosed l v began t ∧ exec cmd s = .next (startTx t))) ∧
  ∀ (s : State) (l : Line) (v : Visit) (next : Bool), s.awaits l v →
    let d := s.drop v.slot
    let frame := fun ctrl : Byte =>
      let bytes := [v.address, ctrl, 0x00#8]
      (bytes ++ [hiByte (crc16 bytes), loByte (crc16 bytes)]).map cleanChar
    let ended := fun t : State => (t.lc l).visit = none ∧ (t.lc l).receiver = .notWaiting ∧ (t.lc l).failCount = 0 ∧
      (t.lc l).state = .running ∧ SameDropsBut v.slot s t ∧ t.lc l.other = s.lc l.other ∧ t.retire = s.retire
    d.state.live = true → d.currentLine = l → d.pendingMove = none → (s.lc l).state = .running →
    1 ≤ (s.lc l).cfg.faultThreshold.toNat →
    (v.kind = .resync → ∃ t, exec (.replyFrameReceived l (frame 0xB0#8)) s = .next t ∧ ended t ∧ t.store = s.store ∧
      t.drop v.slot = { d with
        state := .online, missCount := 0
        link := { d.link with resyncNeeded := false, seqOut := false, expectedIn := false, inFlight := false } } ∧
      (d.state = .lost → ∃ e ∈ (t.lc l).ring, e.slot = v.slot) ∧
      (d.state ≠ .lost → (t.lc l).ring = (s.lc l).ring ∧ (t.lc l).probeList = (s.lc l).probeList)) ∧
    (v.kind = .deliver → ∃ t, exec (.replyFrameReceived l (frame (if next then 0x94#8 else 0x90#8))) s = .next t ∧
      ended t ∧
      (next = d.link.seqOut → t.store = s.store ∧
        t.drop v.slot = { d with
          state := if d.state = .suspect then .online else d.state, missCount := 0, settleWait := false
          link := { d.link with inFlight := false } }) ∧
      ∀ m rest seg, next ≠ d.link.seqOut → d.outbox = m :: rest → d.headLock = true →
        v.delivered = some { id := m.id, seg := seg } →
        (seg + 1 ≠ m.chain.length → t.store = s.store ∧
          t.drop v.slot = { d with
            state := if d.state = .suspect then .online else d.state, missCount := 0, settleWait := false
            link := { d.link with inFlight := false, seqOut := next, segIndex := d.link.segIndex + 1 } }) ∧
        (seg + 1 = m.chain.length →
          t.store.freeCells = s.store.freeCells ++ m.chain.map Cell.no ∧
          t.store.freeRecords = s.store.freeRecords ++ [m.recNo] ∧
          t.drop v.slot = { d with
            state := if d.state = .suspect then .online else d.state, missCount := 0, settleWait := false
            outbox := rest, headLock := false
            link := { d.link with inFlight := false, seqOut := next, segIndex := 0 } }))

/-- A segment of an inbound message offered to the store (R88 to R94). With FIRST over a partial message: that message is
cut off first, whatever the decision, which is then made on the state it leaves. With FIRST and no partial message: refused
while the inbox is at its limit, the pool is in HOLD or a cell or record is wanting; else a message with the first free cell
and record that holds the bytes up to the maximum inbound length, INTACT, or OVERLONG when that is not all. A continuation
keeps what the maximum inbound length leaves room for, and nothing of a message already OVERLONG or of an eighth segment;
it is OVERLONG from the first byte it drops. It is refused when it keeps a byte and no cell is free; else it adds a cell for
what it keeps, and 1 to the segment count, up to 255. With LAST the message joins the inbox with the next inbound id and its
alert mark, and without it waits as the partial message (MessageStands). A continuation with no partial message is dropped,
and only the error total counts it. -/
def Obligations.OfferedSegmentBuildsAMessage : Prop :=
  ∀ (s : State) (i : Slot) (last : Bool) (data : List Byte), 1 ≤ data.length → data.length ≤ 32 →
    let d := s.drop i
    (d.partialMsg = none →
      (d.inboxLimit.toNat ≤ d.inbox.length ∨ s.store.hold = true ∨ s.store.freeCells = [] ∨ s.store.freeRecords = [] →
        offerSegment i true last data s = (false, s)) ∧
      (∀ c cs r rs, d.inbox.length < d.inboxLimit.toNat → s.store.hold = false → s.store.freeCells = c :: cs →
        s.store.freeRecords = r :: rs →
        ∃ t, offerSegment i true last data s = (true, t) ∧ t.store.freeCells = cs ∧ t.store.freeRecords = rs ∧
          MessageStands i last
            { recNo := r
              id := none
              chain := [{ no := c, data := data.take d.maxInbound.toNat }]
              status := if d.maxInbound.toNat < data.length then InStatus.overlong else InStatus.intact
              alertMark := false
              fetched := false
              segCount := 1 } s t) ∧
      ∃ t, offerSegment i false last data s = (true, t) ∧
        t = s.setDrop i { d with errorTotal := BitVec.ofNat 16 (min 65535 (d.errorTotal.toNat + 1)) }) ∧
    ∀ p, d.partialMsg = some p →
      (∃ w, MessageStands i true { p with status := .incomplete } s w ∧ w.store = s.store ∧
        offerSegment i true last data s = offerSegment i true last data w) ∧
      let kept := if p.status = .overlong ∨ 7 ≤ p.segCount.toNat then [] else data.take (d.maxInbound.toNat - p.length)
      (kept ≠ [] → s.store.freeCells = [] → offerSegment i false last data s = (false, s)) ∧
      (kept = [] ∨ s.store.freeCells ≠ [] →
        ∃ t, offerSegment i false last data s = (true, t) ∧ t.store.freeRecords = s.store.freeRecords ∧
          t.store.freeCells = (if kept = [] then s.store.freeCells else s.store.freeCells.tail) ∧
          MessageStands i last { p with
            chain := p.chain ++ (if kept = [] then [] else s.store.freeCells.head?.toList.map (fun c => { no := c, data := kept }))
            status := if kept.length < data.length then .overlong else p.status
            segCount := BitVec.ofNat 8 (min 255 (p.segCount.toNat + 1)) } s t)

/-! ## Invariants of every step -/

/-- Every step keeps the rule of the pool marks and the hold state. -/
def Obligations.StepKeepsPoolRule : Prop := ∀ s t : State, PoolRule s → step s = .next t → PoolRule t

/-- Every step keeps the outstanding requests within four, their tags distinct and non-zero, and the urgent queues within
eight drops, each once. -/
def Obligations.StepKeepsBoundedTables : Prop :=
  ∀ s t : State, step s = .next t → (OutstandingRule s → OutstandingRule t) ∧ (UrgentRule s → UrgentRule t)

/-- Every step keeps each cell and each record either free or in exactly one message. -/
def Obligations.StepKeepsTheStore : Prop := ∀ s t : State, StoreConserved s → step s = .next t → StoreConserved t

/-- Every step keeps each place on the lines in use or reserved by at most one drop. -/
def Obligations.StepKeepsPlacesUnique : Prop := ∀ s t : State, PlacesUnique s → step s = .next t → PlacesUnique t
end

