-- ==== Sys2Proof/Laws/State.lean ====
section
/-!
SUPPORT. What each update of the state leaves and sets, one lemma per field, so that no later proof unfolds a record
update.
-/

namespace Sys2Proof.Machine

@[simp] theorem setStore_pending (s : State) (st : Store) : (s.setStore st).pending = s.pending := rfl
@[simp] theorem setStore_timebase (s : State) (st : Store) : (s.setStore st).timebase = s.timebase := rfl
@[simp] theorem setStore_hli (s : State) (st : Store) : (s.setStore st).hli = s.hli := rfl
@[simp] theorem setStore_drops (s : State) (st : Store) : (s.setStore st).drops = s.drops := rfl
@[simp] theorem setStore_retire (s : State) (st : Store) : (s.setStore st).retire = s.retire := rfl
@[simp] theorem setStore_store (s : State) (st : Store) : (s.setStore st).store = st := rfl
@[simp] theorem setStore_lcA (s : State) (st : Store) : (s.setStore st).lcA = s.lcA := rfl
@[simp] theorem setStore_lcB (s : State) (st : Store) : (s.setStore st).lcB = s.lcB := rfl
@[simp] theorem setStore_au (s : State) (st : Store) : (s.setStore st).au = s.au := rfl

@[simp] theorem setHli_pending (s : State) (h : Hli) : (s.setHli h).pending = s.pending := rfl
@[simp] theorem setHli_timebase (s : State) (h : Hli) : (s.setHli h).timebase = s.timebase := rfl
@[simp] theorem setHli_hli (s : State) (h : Hli) : (s.setHli h).hli = h := rfl
@[simp] theorem setHli_drops (s : State) (h : Hli) : (s.setHli h).drops = s.drops := rfl
@[simp] theorem setHli_retire (s : State) (h : Hli) : (s.setHli h).retire = s.retire := rfl
@[simp] theorem setHli_store (s : State) (h : Hli) : (s.setHli h).store = s.store := rfl
@[simp] theorem setHli_lcA (s : State) (h : Hli) : (s.setHli h).lcA = s.lcA := rfl
@[simp] theorem setHli_lcB (s : State) (h : Hli) : (s.setHli h).lcB = s.lcB := rfl
@[simp] theorem setHli_au (s : State) (h : Hli) : (s.setHli h).au = s.au := rfl

@[simp] theorem setAu_pending (s : State) (a : Attn) : (s.setAu a).pending = s.pending := rfl
@[simp] theorem setAu_timebase (s : State) (a : Attn) : (s.setAu a).timebase = s.timebase := rfl
@[simp] theorem setAu_hli (s : State) (a : Attn) : (s.setAu a).hli = s.hli := rfl
@[simp] theorem setAu_drops (s : State) (a : Attn) : (s.setAu a).drops = s.drops := rfl
@[simp] theorem setAu_retire (s : State) (a : Attn) : (s.setAu a).retire = s.retire := rfl
@[simp] theorem setAu_store (s : State) (a : Attn) : (s.setAu a).store = s.store := rfl
@[simp] theorem setAu_lcA (s : State) (a : Attn) : (s.setAu a).lcA = s.lcA := rfl
@[simp] theorem setAu_lcB (s : State) (a : Attn) : (s.setAu a).lcB = s.lcB := rfl
@[simp] theorem setAu_au (s : State) (a : Attn) : (s.setAu a).au = a := rfl

@[simp] theorem setTimebase_pending (s : State) (n : Nat) : (s.setTimebase n).pending = s.pending := rfl
@[simp] theorem setTimebase_hli (s : State) (n : Nat) : (s.setTimebase n).hli = s.hli := rfl
@[simp] theorem setTimebase_drops (s : State) (n : Nat) : (s.setTimebase n).drops = s.drops := rfl
@[simp] theorem setTimebase_retire (s : State) (n : Nat) : (s.setTimebase n).retire = s.retire := rfl
@[simp] theorem setTimebase_store (s : State) (n : Nat) : (s.setTimebase n).store = s.store := rfl
@[simp] theorem setTimebase_lcA (s : State) (n : Nat) : (s.setTimebase n).lcA = s.lcA := rfl
@[simp] theorem setTimebase_lcB (s : State) (n : Nat) : (s.setTimebase n).lcB = s.lcB := rfl
@[simp] theorem setTimebase_au (s : State) (n : Nat) : (s.setTimebase n).au = s.au := rfl
@[simp] theorem setTimebase_timebase (s : State) (n : Nat) : (s.setTimebase n).timebase = n := rfl
@[simp] theorem setTimebase_drop (s : State) (n : Nat) (i : Slot) : (s.setTimebase n).drop i = s.drop i := rfl
@[simp] theorem setTimebase_lc (s : State) (n : Nat) (l : Line) : (s.setTimebase n).lc l = s.lc l := by cases l <;> rfl

@[simp] theorem setRetire_pending (s : State) (r : Option RetireOp) : (s.setRetire r).pending = s.pending := rfl
@[simp] theorem setRetire_timebase (s : State) (r : Option RetireOp) : (s.setRetire r).timebase = s.timebase := rfl
@[simp] theorem setRetire_hli (s : State) (r : Option RetireOp) : (s.setRetire r).hli = s.hli := rfl
@[simp] theorem setRetire_drops (s : State) (r : Option RetireOp) : (s.setRetire r).drops = s.drops := rfl
@[simp] theorem setRetire_retire (s : State) (r : Option RetireOp) : (s.setRetire r).retire = r := rfl
@[simp] theorem setRetire_store (s : State) (r : Option RetireOp) : (s.setRetire r).store = s.store := rfl
@[simp] theorem setRetire_lcA (s : State) (r : Option RetireOp) : (s.setRetire r).lcA = s.lcA := rfl
@[simp] theorem setRetire_lcB (s : State) (r : Option RetireOp) : (s.setRetire r).lcB = s.lcB := rfl
@[simp] theorem setRetire_au (s : State) (r : Option RetireOp) : (s.setRetire r).au = s.au := rfl

@[simp] theorem setDrop_pending (s : State) (i : Slot) (d : Drop) : (s.setDrop i d).pending = s.pending := rfl
@[simp] theorem setDrop_timebase (s : State) (i : Slot) (d : Drop) : (s.setDrop i d).timebase = s.timebase := rfl
@[simp] theorem setDrop_hli (s : State) (i : Slot) (d : Drop) : (s.setDrop i d).hli = s.hli := rfl
@[simp] theorem setDrop_drops (s : State) (i : Slot) (d : Drop) : (s.setDrop i d).drops = s.drops.set i d := rfl
@[simp] theorem setDrop_retire (s : State) (i : Slot) (d : Drop) : (s.setDrop i d).retire = s.retire := rfl
@[simp] theorem setDrop_store (s : State) (i : Slot) (d : Drop) : (s.setDrop i d).store = s.store := rfl
@[simp] theorem setDrop_lcA (s : State) (i : Slot) (d : Drop) : (s.setDrop i d).lcA = s.lcA := rfl
@[simp] theorem setDrop_lcB (s : State) (i : Slot) (d : Drop) : (s.setDrop i d).lcB = s.lcB := rfl
@[simp] theorem setDrop_au (s : State) (i : Slot) (d : Drop) : (s.setDrop i d).au = s.au := rfl

@[simp] theorem setLc_pending (s : State) (l : Line) (c : LineCtl) : (s.setLc l c).pending = s.pending := by cases l <;> rfl
@[simp] theorem setLc_timebase (s : State) (l : Line) (c : LineCtl) : (s.setLc l c).timebase = s.timebase := by cases l <;> rfl
@[simp] theorem setLc_hli (s : State) (l : Line) (c : LineCtl) : (s.setLc l c).hli = s.hli := by cases l <;> rfl
@[simp] theorem setLc_drops (s : State) (l : Line) (c : LineCtl) : (s.setLc l c).drops = s.drops := by cases l <;> rfl
@[simp] theorem setLc_retire (s : State) (l : Line) (c : LineCtl) : (s.setLc l c).retire = s.retire := by cases l <;> rfl
@[simp] theorem setLc_store (s : State) (l : Line) (c : LineCtl) : (s.setLc l c).store = s.store := by cases l <;> rfl
@[simp] theorem setLc_au (s : State) (l : Line) (c : LineCtl) : (s.setLc l c).au = s.au := by cases l <;> rfl

@[simp] theorem setLc_lc_same (s : State) (l : Line) (c : LineCtl) : (s.setLc l c).lc l = c := by cases l <;> rfl

@[simp] theorem setLc_lc_other (s : State) (l : Line) (c : LineCtl) : (s.setLc l c).lc l.other = s.lc l.other := by
  cases l <;> rfl

theorem setLc_lc_ne {l m : Line} (h : m ≠ l) (s : State) (c : LineCtl) : (s.setLc l c).lc m = s.lc m := by
  cases l <;> cases m <;> first | rfl | exact absurd rfl h

theorem setLc_lc (s : State) (l m : Line) (c : LineCtl) : (s.setLc l c).lc m = if m = l then c else s.lc m := by
  cases l <;> cases m <;> rfl

theorem setLc_setLc_same (s : State) (l : Line) (c d : LineCtl) : (s.setLc l c).setLc l d = s.setLc l d := by
  cases l <;> rfl

theorem setLc_self (s : State) (l : Line) : s.setLc l (s.lc l) = s := by cases l <;> rfl

@[simp] theorem setDrop_drop_same (s : State) (i : Slot) (d : Drop) : (s.setDrop i d).drop i = d := by
  simp [State.drop, State.setDrop]

theorem setDrop_drop_ne {i j : Slot} (h : i ≠ j) (s : State) (d : Drop) : (s.setDrop i d).drop j = s.drop j := by
  have hv : (i : Nat) ≠ j := fun e => h (Fin.ext e)
  simp [State.drop, State.setDrop, Vector.getElem_set_ne, hv]

theorem setDrop_setDrop_same (s : State) (i : Slot) (d e : Drop) : (s.setDrop i d).setDrop i e = s.setDrop i e := by
  simp [State.setDrop, Vector.set_set]

theorem setDrop_drop (s : State) (i j : Slot) (d : Drop) : (s.setDrop i d).drop j = if j = i then d else s.drop j := by
  by_cases h : j = i
  · subst h; simp
  · rw [if_neg h, setDrop_drop_ne (Ne.symm h)]

@[simp] theorem setDrop_lc (s : State) (i : Slot) (d : Drop) (l : Line) : (s.setDrop i d).lc l = s.lc l := by cases l <;> rfl

@[simp] theorem setStore_drop (s : State) (st : Store) (i : Slot) : (s.setStore st).drop i = s.drop i := rfl

@[simp] theorem setStore_lc (s : State) (st : Store) (l : Line) : (s.setStore st).lc l = s.lc l := by cases l <;> rfl

@[simp] theorem setHli_drop (s : State) (h : Hli) (i : Slot) : (s.setHli h).drop i = s.drop i := rfl

@[simp] theorem setHli_lc (s : State) (h : Hli) (l : Line) : (s.setHli h).lc l = s.lc l := by cases l <;> rfl

@[simp] theorem setAu_drop (s : State) (a : Attn) (i : Slot) : (s.setAu a).drop i = s.drop i := rfl

@[simp] theorem setAu_lc (s : State) (a : Attn) (l : Line) : (s.setAu a).lc l = s.lc l := by cases l <;> rfl

@[simp] theorem setRetire_drop (s : State) (r : Option RetireOp) (i : Slot) : (s.setRetire r).drop i = s.drop i := rfl

@[simp] theorem setRetire_lc (s : State) (r : Option RetireOp) (l : Line) : (s.setRetire r).lc l = s.lc l := by cases l <;> rfl

@[simp] theorem setLc_drop (s : State) (l : Line) (c : LineCtl) (i : Slot) : (s.setLc l c).drop i = s.drop i := by
  cases l <;> rfl

@[simp] theorem setHli_setHli (s : State) (g h : Hli) : (s.setHli g).setHli h = s.setHli h := rfl

theorem setHli_self (s : State) : s.setHli s.hli = s := rfl

theorem setHli_setStore (s : State) (h : Hli) (st : Store) : (s.setHli h).setStore st = (s.setStore st).setHli h := rfl

theorem setHli_setAu (s : State) (h : Hli) (a : Attn) : (s.setHli h).setAu a = (s.setAu a).setHli h := rfl

theorem setHli_setRetire (s : State) (h : Hli) (r : Option RetireOp) : (s.setHli h).setRetire r = (s.setRetire r).setHli h := rfl

theorem setHli_setDrop (s : State) (h : Hli) (i : Slot) (d : Drop) : (s.setHli h).setDrop i d = (s.setDrop i d).setHli h := rfl

theorem setHli_setLc (s : State) (h : Hli) (l : Line) (c : LineCtl) : (s.setHli h).setLc l c = (s.setLc l c).setHli h := by
  cases l <;> rfl

@[simp] theorem modDrop_pending (s : State) (i : Slot) (f : Drop → Drop) : (s.modDrop i f).pending = s.pending := rfl
@[simp] theorem modDrop_timebase (s : State) (i : Slot) (f : Drop → Drop) : (s.modDrop i f).timebase = s.timebase := rfl
@[simp] theorem modDrop_hli (s : State) (i : Slot) (f : Drop → Drop) : (s.modDrop i f).hli = s.hli := rfl
@[simp] theorem modDrop_retire (s : State) (i : Slot) (f : Drop → Drop) : (s.modDrop i f).retire = s.retire := rfl
@[simp] theorem modDrop_store (s : State) (i : Slot) (f : Drop → Drop) : (s.modDrop i f).store = s.store := rfl
@[simp] theorem modDrop_lcA (s : State) (i : Slot) (f : Drop → Drop) : (s.modDrop i f).lcA = s.lcA := rfl
@[simp] theorem modDrop_lcB (s : State) (i : Slot) (f : Drop → Drop) : (s.modDrop i f).lcB = s.lcB := rfl
@[simp] theorem modDrop_au (s : State) (i : Slot) (f : Drop → Drop) : (s.modDrop i f).au = s.au := rfl

@[simp] theorem modDrop_drop_same (s : State) (i : Slot) (f : Drop → Drop) : (s.modDrop i f).drop i = f (s.drop i) := by
  simp [State.modDrop]

theorem modDrop_drop_ne {i j : Slot} (h : i ≠ j) (s : State) (f : Drop → Drop) : (s.modDrop i f).drop j = s.drop j :=
  setDrop_drop_ne h s _

theorem modDrop_drop (s : State) (i j : Slot) (f : Drop → Drop) :
    (s.modDrop i f).drop j = if j = i then f (s.drop i) else s.drop j := setDrop_drop s i j _

@[simp] theorem modDrop_lc (s : State) (i : Slot) (f : Drop → Drop) (l : Line) : (s.modDrop i f).lc l = s.lc l := by
  cases l <;> rfl

@[simp] theorem modLc_pending (s : State) (l : Line) (f : LineCtl → LineCtl) : (s.modLc l f).pending = s.pending := by cases l <;> rfl
@[simp] theorem modLc_timebase (s : State) (l : Line) (f : LineCtl → LineCtl) : (s.modLc l f).timebase = s.timebase := by cases l <;> rfl
@[simp] theorem modLc_hli (s : State) (l : Line) (f : LineCtl → LineCtl) : (s.modLc l f).hli = s.hli := by cases l <;> rfl
@[simp] theorem modLc_drops (s : State) (l : Line) (f : LineCtl → LineCtl) : (s.modLc l f).drops = s.drops := by cases l <;> rfl
@[simp] theorem modLc_retire (s : State) (l : Line) (f : LineCtl → LineCtl) : (s.modLc l f).retire = s.retire := by cases l <;> rfl
@[simp] theorem modLc_store (s : State) (l : Line) (f : LineCtl → LineCtl) : (s.modLc l f).store = s.store := by cases l <;> rfl
@[simp] theorem modLc_au (s : State) (l : Line) (f : LineCtl → LineCtl) : (s.modLc l f).au = s.au := by cases l <;> rfl

@[simp] theorem modLc_lc_same (s : State) (l : Line) (f : LineCtl → LineCtl) : (s.modLc l f).lc l = f (s.lc l) := by
  simp [State.modLc]

@[simp] theorem modLc_lc_other (s : State) (l : Line) (f : LineCtl → LineCtl) : (s.modLc l f).lc l.other = s.lc l.other := by
  simp [State.modLc]

theorem modLc_lc_ne {l m : Line} (h : m ≠ l) (s : State) (f : LineCtl → LineCtl) : (s.modLc l f).lc m = s.lc m :=
  setLc_lc_ne h s _

theorem modLc_lc (s : State) (l m : Line) (f : LineCtl → LineCtl) :
    (s.modLc l f).lc m = if m = l then f (s.lc l) else s.lc m := setLc_lc s l m _

@[simp] theorem modLc_drop (s : State) (l : Line) (f : LineCtl → LineCtl) (i : Slot) : (s.modLc l f).drop i = s.drop i := by
  simp [State.modLc]

@[simp] theorem modSlotAttn_pending (s : State) (i : Slot) (f : SlotAttn → SlotAttn) : (s.modSlotAttn i f).pending = s.pending := rfl
@[simp] theorem modLineAttn_pending (s : State) (l : Line) (f : LineAttn → LineAttn) : (s.modLineAttn l f).pending = s.pending := rfl
@[simp] theorem modSlotAttn_timebase (s : State) (i : Slot) (f : SlotAttn → SlotAttn) : (s.modSlotAttn i f).timebase = s.timebase := rfl
@[simp] theorem modLineAttn_timebase (s : State) (l : Line) (f : LineAttn → LineAttn) : (s.modLineAttn l f).timebase = s.timebase := rfl
@[simp] theorem modSlotAttn_hli (s : State) (i : Slot) (f : SlotAttn → SlotAttn) : (s.modSlotAttn i f).hli = s.hli := rfl
@[simp] theorem modLineAttn_hli (s : State) (l : Line) (f : LineAttn → LineAttn) : (s.modLineAttn l f).hli = s.hli := rfl
@[simp] theorem modSlotAttn_drops (s : State) (i : Slot) (f : SlotAttn → SlotAttn) : (s.modSlotAttn i f).drops = s.drops := rfl
@[simp] theorem modLineAttn_drops (s : State) (l : Line) (f : LineAttn → LineAttn) : (s.modLineAttn l f).drops = s.drops := rfl
@[simp] theorem modSlotAttn_retire (s : State) (i : Slot) (f : SlotAttn → SlotAttn) : (s.modSlotAttn i f).retire = s.retire := rfl
@[simp] theorem modLineAttn_retire (s : State) (l : Line) (f : LineAttn → LineAttn) : (s.modLineAttn l f).retire = s.retire := rfl
@[simp] theorem modSlotAttn_store (s : State) (i : Slot) (f : SlotAttn → SlotAttn) : (s.modSlotAttn i f).store = s.store := rfl
@[simp] theorem modLineAttn_store (s : State) (l : Line) (f : LineAttn → LineAttn) : (s.modLineAttn l f).store = s.store := rfl
@[simp] theorem modSlotAttn_lcA (s : State) (i : Slot) (f : SlotAttn → SlotAttn) : (s.modSlotAttn i f).lcA = s.lcA := rfl
@[simp] theorem modLineAttn_lcA (s : State) (l : Line) (f : LineAttn → LineAttn) : (s.modLineAttn l f).lcA = s.lcA := rfl
@[simp] theorem modSlotAttn_lcB (s : State) (i : Slot) (f : SlotAttn → SlotAttn) : (s.modSlotAttn i f).lcB = s.lcB := rfl
@[simp] theorem modLineAttn_lcB (s : State) (l : Line) (f : LineAttn → LineAttn) : (s.modLineAttn l f).lcB = s.lcB := rfl

@[simp] theorem modSlotAttn_drop (s : State) (i : Slot) (f : SlotAttn → SlotAttn) (j : Slot) :
    (s.modSlotAttn i f).drop j = s.drop j := rfl

@[simp] theorem modSlotAttn_lc (s : State) (i : Slot) (f : SlotAttn → SlotAttn) (l : Line) :
    (s.modSlotAttn i f).lc l = s.lc l := by cases l <;> rfl

@[simp] theorem modLineAttn_drop (s : State) (l : Line) (f : LineAttn → LineAttn) (j : Slot) :
    (s.modLineAttn l f).drop j = s.drop j := rfl

@[simp] theorem modLineAttn_lc (s : State) (m : Line) (f : LineAttn → LineAttn) (l : Line) :
    (s.modLineAttn m f).lc l = s.lc l := by cases l <;> rfl

@[simp] theorem modLink_pending (s : State) (i : Slot) (f : LinkRecord → LinkRecord) : (s.modLink i f).pending = s.pending := rfl
@[simp] theorem modLink_timebase (s : State) (i : Slot) (f : LinkRecord → LinkRecord) : (s.modLink i f).timebase = s.timebase := rfl
@[simp] theorem modLink_hli (s : State) (i : Slot) (f : LinkRecord → LinkRecord) : (s.modLink i f).hli = s.hli := rfl
@[simp] theorem modLink_retire (s : State) (i : Slot) (f : LinkRecord → LinkRecord) : (s.modLink i f).retire = s.retire := rfl
@[simp] theorem modLink_store (s : State) (i : Slot) (f : LinkRecord → LinkRecord) : (s.modLink i f).store = s.store := rfl
@[simp] theorem modLink_lcA (s : State) (i : Slot) (f : LinkRecord → LinkRecord) : (s.modLink i f).lcA = s.lcA := rfl
@[simp] theorem modLink_lcB (s : State) (i : Slot) (f : LinkRecord → LinkRecord) : (s.modLink i f).lcB = s.lcB := rfl
@[simp] theorem modLink_au (s : State) (i : Slot) (f : LinkRecord → LinkRecord) : (s.modLink i f).au = s.au := rfl

@[simp] theorem modLink_drop_same (s : State) (i : Slot) (f : LinkRecord → LinkRecord) :
    (s.modLink i f).drop i = { s.drop i with link := f (s.drop i).link } := by simp [State.modLink]

theorem modLink_drop_ne {i j : Slot} (h : i ≠ j) (s : State) (f : LinkRecord → LinkRecord) :
    (s.modLink i f).drop j = s.drop j := modDrop_drop_ne h s _

@[simp] theorem modLink_lc (s : State) (i : Slot) (f : LinkRecord → LinkRecord) (l : Line) :
    (s.modLink i f).lc l = s.lc l := by cases l <;> rfl

/-- Replacing the link alone changes what `lc` gives on no line. -/
theorem lc_setHli (s : State) (h : Hli) : (s.setHli h).lc = s.lc := by
  funext l; cases l <;> rfl

/-! ## The Attention Unit's instances -/

@[simp] theorem modSlot_slot_same (a : Attn) (i : Slot) (f : SlotAttn → SlotAttn) : (a.modSlot i f).slot i = f (a.slot i) := by
  simp [Attn.modSlot, Attn.slot]

theorem modSlot_slot_ne {i j : Slot} (h : j ≠ i) (a : Attn) (f : SlotAttn → SlotAttn) :
    (a.modSlot i f).slot j = a.slot j := by
  have hv : (i : Nat) ≠ j := fun e => h (Fin.ext e.symm)
  simp [Attn.modSlot, Attn.slot, Vector.getElem_set_ne, hv]

@[simp] theorem modSlot_line (a : Attn) (i : Slot) (f : SlotAttn → SlotAttn) (l : Line) :
    (a.modSlot i f).line l = a.line l := by cases l <;> rfl

@[simp] theorem modLine_slot (a : Attn) (l : Line) (f : LineAttn → LineAttn) (i : Slot) :
    (a.modLine l f).slot i = a.slot i := by cases l <;> rfl

@[simp] theorem modLine_line_same (a : Attn) (l : Line) (f : LineAttn → LineAttn) : (a.modLine l f).line l = f (a.line l) := by
  cases l <;> rfl

@[simp] theorem modLine_line_other (a : Attn) (l : Line) (f : LineAttn → LineAttn) :
    (a.modLine l f).line l.other = a.line l.other := by cases l <;> rfl

@[simp] theorem modSlotAttn_au (s : State) (i : Slot) (f : SlotAttn → SlotAttn) :
    (s.modSlotAttn i f).au = s.au.modSlot i f := rfl

@[simp] theorem modLineAttn_au (s : State) (l : Line) (f : LineAttn → LineAttn) :
    (s.modLineAttn l f).au = s.au.modLine l f := rfl

theorem line_cases (l m : Line) : m = l ∨ m = l.other := by cases l <;> cases m <;> simp [Line.other]

@[simp] theorem other_ne (l : Line) : l.other ≠ l := by cases l <;> simp [Line.other]

@[simp] theorem ne_other (l : Line) : l ≠ l.other := by cases l <;> simp [Line.other]

end Sys2Proof.Machine
end

