-- ==== Sys2Proof/Laws/HostLink.lean ====
section
/-!
SUPPORT. The host link's shared operations: a record's bytes through the framer, admission, the posting of a reply
and the start of a transmission.
-/

namespace Sys2Proof.Machine

/-! ## Two-byte items -/

theorem halfOf_hi_lo (w : Half) : halfOf (hiByte w) (loByte w) = w := by
  apply BitVec.eq_of_getLsbD_eq
  intro i hi
  simp only [halfOf, hiByte, loByte, BitVec.append_eq, BitVec.getLsbD_append, BitVec.getLsbD_extractLsb']
  by_cases h : i < 8
  · simp [h]
  · simp [h]
    have : i - 8 < 8 := by omega
    simp [this, show 8 + (i - 8) = i by omega]

/-! ## The framer (R157) -/

/-- The host link takes bytes: out of reset, and HRXD has returned high. -/
def State.hears (s : State) : Prop := s.hli.inReset = false ∧ s.hli.hrxdLow = false

/-- The state with the framer in another state. -/
def State.framed (s : State) (f : Framer) : State := s.setHli { s.hli with framer := f }

theorem framed_hears {s : State} (h : s.hears) (f : Framer) : (s.framed f).hears := h

@[simp] theorem framed_framed (s : State) (f g : Framer) : (s.framed f).framed g = s.framed g := rfl

theorem framed_self (s : State) : s.framed s.hli.framer = s := rfl

/-- One byte that hands on no record moves the framer and nothing else. -/
theorem takeHostByte_quiet {s : State} (h : s.hears) {f g : Framer} {b : Byte} (e : f.take b = (g, none)) :
    takeHostByte (s.framed f) b = s.framed g := by
  simp [takeHostByte, h.1, h.2, e, handOnSome, State.framed]

/-- One byte that hands on a record. -/
theorem takeHostByte_hands {s : State} (h : s.hears) {f g : Framer} {b : Byte} {r : Handed} (e : f.take b = (g, some r)) :
    takeHostByte (s.framed f) b = handOn r (s.framed g) := by
  simp [takeHostByte, h.1, h.2, e, handOnSome, State.framed]

/-- The body bytes of a record are collected in order. -/
theorem takeHostBytes_body {s : State} (h : s.hears) (n t k : Byte) (bs : List Byte) (b : Byte) (got : List Byte) :
    takeHostBytes (b :: bs) (s.framed (.body n t k got (bs.length + 1))) = s.framed (.crcHigh n t k (got ++ b :: bs)) := by
  induction bs generalizing b got with
  | nil =>
    have e : (Framer.body n t k got 1).take b = (.crcHigh n t k (got ++ [b]), none) := by simp [Framer.take]
    simpa [takeHostBytes] using takeHostByte_quiet h e
  | cons c cs ih =>
    have e : (Framer.body n t k got (cs.length + 1 + 1)).take b = (.body n t k (got ++ [b]) (cs.length + 1), none) := by
      simp [Framer.take]
    have step := takeHostByte_quiet h e
    simp only [takeHostBytes, List.foldl_cons, List.length_cons] at ih ⊢
    rw [step]
    simpa using ih c (got ++ [b])

theorem byteOf_toNat {n : Nat} (h : n < 256) : (byteOf n).toNat = n := by
  simp [byteOf, Nat.mod_eq_of_lt h]

/-- A whole record with a good CRC passes the framer in HUNT and is handed on, with the framer back in HUNT. -/
theorem takeHostBytes_record {s : State} (h : s.hears) (hf : s.hli.framer = .hunt) (tag kind : Byte)
    {body : List Byte} (hb : body.length ≤ 248) :
    takeHostBytes (recordBytes tag kind body) s = handOn (.whole tag kind body true) s := by
  have hs : s = s.framed .hunt := by rw [← hf]; exact (framed_self s).symm
  have hn : (byteOf (body.length + 2)).toNat = body.length + 2 := byteOf_toNat (by omega)
  generalize hlen : byteOf (body.length + 2) = n at *
  generalize hw : crc16 (n :: tag :: kind :: body) = w
  have e1 : Framer.hunt.take Config.startByte = (.len, none) := by simp [Framer.take]
  have e2 : Framer.len.take n = (.tag n, none) := by
    have : Config.lenMin ≤ n.toNat ∧ n.toNat ≤ Config.lenMax := by
      rw [hn]; simp [Config.lenMin, Config.lenMax]; omega
    simp [Framer.take, this]
  have e3 : (Framer.tag n).take tag = (.kind n tag, none) := rfl
  have e5 : (Framer.crcHigh n tag kind body).take (hiByte w) = (.crcLow n tag kind body (hiByte w), none) := rfl
  have e6 : (Framer.crcLow n tag kind body (hiByte w)).take (loByte w) = (.hunt, some (.whole tag kind body true)) := by
    simp [Framer.take, halfOf_hi_lo, hw]
  have mid : takeHostBytes (kind :: body) (s.framed (.kind n tag)) = s.framed (.crcHigh n tag kind body) := by
    cases body with
    | nil =>
      have e4 : (Framer.kind n tag).take kind = (.crcHigh n tag kind [], none) := by simp [Framer.take, hn]
      simpa [takeHostBytes] using takeHostByte_quiet h e4
    | cons b bs =>
      have e4 : (Framer.kind n tag).take kind = (.body n tag kind [] (bs.length + 1), none) := by
        simp [Framer.take, hn]
      have := takeHostBytes_body h n tag kind bs b []
      simp only [takeHostBytes, List.foldl_cons] at this ⊢
      rw [takeHostByte_quiet h e4]
      simpa using this
  conv_lhs => rw [hs]
  simp only [recordBytes, hlen, hw, takeHostBytes, List.foldl_cons, List.cons_append, List.foldl_append] at mid ⊢
  rw [takeHostByte_quiet h e1, takeHostByte_quiet h e2, takeHostByte_quiet h e3, mid, takeHostByte_quiet h e5]
  simp only [List.foldl_nil]
  rw [takeHostByte_hands h e6, ← hs]

/-! ## Admission (R159, R160) -/

theorem ofByte_byte (k : ReqKind) : ReqKind.ofByte k.byte = some k := by cases k <;> decide

theorem listens_iff (s : State) :
    s.listens = true ↔
      s.hli.inReset = false ∧ s.hli.hrxdLow = false ∧ s.hli.framer = .hunt ∧ s.hli.restartPending = false := by
  simp [State.listens, and_assoc]

theorem admits_iff (s : State) (tag : Byte) (body : List Byte) :
    s.admits tag body = true ↔
      s.listens = true ∧ tag ≠ 0#8 ∧ body.length ≤ 248 ∧ s.hli.tagInUse tag = false ∧ s.hli.outstanding.length < 4 := by
  simp [State.admits, Hli.tagInUse, and_assoc]

/-- A whole record that passes the checks of R159 is judged by admission alone. -/
theorem hostRecord_listens {s : State} (h : s.listens = true) (k : ReqKind) {tag : Byte} (ht : tag ≠ 0#8)
    {body : List Byte} (hb : body.length ≤ 248) :
    hostRecord k tag body s = startTx (admitRequest tag k body s) := by
  obtain ⟨h1, h2, h3, h4⟩ := (listens_iff s).1 h
  rw [hostRecord, takeHostBytes_record ⟨h1, h2⟩ h3 _ _ hb]
  simp [handOn, h4, judgeRecord, rejectionOf, ofByte_byte, ht]

/-- An admitted request enters the table and is handed to its owner. -/
theorem hostRecord_admitted {s : State} {tag : Byte} {body : List Byte} (h : s.admits tag body = true) (k : ReqKind) :
    hostRecord k tag body s = startTx (ownerAct k tag body (admitEntry tag k s)) := by
  obtain ⟨h1, h2, h3, h4, h5⟩ := (admits_iff s tag body).1 h
  have h6 : ¬ Config.outstandingMax ≤ s.hli.outstanding.length := by simp [Config.outstandingMax]; omega
  rw [hostRecord_listens h1 k h2 h3, admitRequest]
  simp [h4, h6]

/-- Every host request is the arrival of its record. -/
theorem exec_command (k : ReqKind) (tag : Byte) (body : List Byte) (s : State) :
    exec (k.command tag body) s = .next (hostRecord k tag body s) := by cases k <;> rfl

@[simp] theorem admitEntry_pending (tag : Byte) (k : ReqKind) (s : State) : (admitEntry tag k s).pending = s.pending := rfl
@[simp] theorem admitEntry_timebase (tag : Byte) (k : ReqKind) (s : State) : (admitEntry tag k s).timebase = s.timebase := rfl
@[simp] theorem admitEntry_drops (tag : Byte) (k : ReqKind) (s : State) : (admitEntry tag k s).drops = s.drops := rfl
@[simp] theorem admitEntry_retire (tag : Byte) (k : ReqKind) (s : State) : (admitEntry tag k s).retire = s.retire := rfl
@[simp] theorem admitEntry_store (tag : Byte) (k : ReqKind) (s : State) : (admitEntry tag k s).store = s.store := rfl
@[simp] theorem admitEntry_lcA (tag : Byte) (k : ReqKind) (s : State) : (admitEntry tag k s).lcA = s.lcA := rfl
@[simp] theorem admitEntry_lcB (tag : Byte) (k : ReqKind) (s : State) : (admitEntry tag k s).lcB = s.lcB := rfl
@[simp] theorem admitEntry_au (tag : Byte) (k : ReqKind) (s : State) : (admitEntry tag k s).au = s.au := rfl
@[simp] theorem admitEntry_drop (tag : Byte) (k : ReqKind) (s : State) (i : Slot) :
    (admitEntry tag k s).drop i = s.drop i := rfl
@[simp] theorem admitEntry_lc (tag : Byte) (k : ReqKind) (s : State) (l : Line) :
    (admitEntry tag k s).lc l = s.lc l := by cases l <;> rfl

/-! ## The transmitter (R163) -/

/-- With a reply ready, the transmitter changes nothing outside the host link. -/
theorem startTx_ready_setHli {s : State} (h : s.hli.ready ≠ []) (g : Hli) : (startTx s).setHli g = s.setHli g := by
  unfold startTx
  split
  · rfl
  · cases hr : s.hli.ready with
    | nil => exact absurd hr h
    | cons r rest => rfl

/-- With a reply ready, the transmitter sends no notice. -/
theorem startTx_ready_au {s : State} (h : s.hli.ready ≠ []) : (startTx s).au = s.au := by
  have := congrArg State.au (startTx_ready_setHli h s.hli)
  exact this

/-- With a reply ready, the transmitter keeps the records, the requests and everything of the host link but the record in
transmission, the queue and the phases. -/
theorem startTx_ready_link {s : State} (h : s.hli.ready ≠ []) :
    (startTx s).hli.records = s.hli.records ∧ (startTx s).hli.requests = s.hli.requests ∧
      ∀ (tx : Option OutRecord) (ready : List OutRecord) (o : List Outstanding),
        { (startTx s).hli with tx := tx, ready := ready, outstanding := o } =
          { s.hli with tx := tx, ready := ready, outstanding := o } := by
  unfold startTx
  split
  · exact ⟨rfl, rfl, fun _ _ _ => rfl⟩
  · rename_i hc
    have htx : s.hli.tx = none := by
      cases ht : s.hli.tx with
      | none => rfl
      | some r => simp [ht] at hc
    cases hr : s.hli.ready with
    | nil => exact absurd hr h
    | cons r rest =>
      refine ⟨by simp [Hli.records, htx, hr], ?_, fun _ _ _ => rfl⟩
      simp only [setHli_hli, Hli.requests]
      split
      · rfl
      · simp only [markPhase, List.map_map]
        apply List.map_congr_left
        intro o _
        simp only [Function.comp]
        split <;> rfl

/-- An idle transmitter with HRDY low, a busy one, and one held in reset start nothing. -/
theorem startTx_held {s : State} (h : s.hli.inReset = true ∨ s.hli.tx ≠ none ∨ s.hli.hrdy = false) : startTx s = s := by
  unfold startTx
  rw [if_pos]
  rcases h with h | h | h
  · simp [h]
  · cases ht : s.hli.tx with
    | none => exact absurd ht h
    | some r => simp
  · simp [h]

/-- The start of a transmission changes nothing but the host link and the Attention Unit. -/
theorem startTx_frame (s : State) :
    (startTx s).pending = s.pending ∧ (startTx s).timebase = s.timebase ∧ (startTx s).drops = s.drops ∧
      (startTx s).retire = s.retire ∧ (startTx s).store = s.store ∧ (startTx s).lcA = s.lcA ∧ (startTx s).lcB = s.lcB := by
  unfold startTx
  split
  · simp
  · split
    · simp
    · split
      · simp
      · rename_i c _
        cases c <;> simp [noticeSent]

@[simp] theorem startTx_pending (s : State) : (startTx s).pending = s.pending := (startTx_frame s).1
@[simp] theorem startTx_timebase (s : State) : (startTx s).timebase = s.timebase := (startTx_frame s).2.1
@[simp] theorem startTx_drops (s : State) : (startTx s).drops = s.drops := (startTx_frame s).2.2.1
@[simp] theorem startTx_retire (s : State) : (startTx s).retire = s.retire := (startTx_frame s).2.2.2.1
@[simp] theorem startTx_store (s : State) : (startTx s).store = s.store := (startTx_frame s).2.2.2.2.1
@[simp] theorem startTx_lcA (s : State) : (startTx s).lcA = s.lcA := (startTx_frame s).2.2.2.2.2.1
@[simp] theorem startTx_lcB (s : State) : (startTx s).lcB = s.lcB := (startTx_frame s).2.2.2.2.2.2
@[simp] theorem startTx_drop (s : State) (i : Slot) : (startTx s).drop i = s.drop i := by simp [State.drop]
@[simp] theorem startTx_lc (s : State) (l : Line) : (startTx s).lc l = s.lc l := by cases l <;> simp [State.lc]

/-! ## Posting a reply (R162, R164) -/

theorem post_ready (tag : Byte) (k : ReqKind) (code : ReplyCode) (data : List Byte) (s : State) :
    (post tag k code data s).hli.ready = s.hli.ready ++ [replyRecord tag k code data .request] := rfl

theorem post_ready_ne (tag : Byte) (k : ReqKind) (code : ReplyCode) (data : List Byte) (s : State) :
    (post tag k code data s).hli.ready ≠ [] := by simp [post_ready]

theorem post_setHli (tag : Byte) (k : ReqKind) (code : ReplyCode) (data : List Byte) (s : State) (g : Hli) :
    (post tag k code data s).setHli g = s.setHli g := rfl

theorem markPhase_requests (tag : Byte) (p : ReqPhase) (t : List Outstanding) :
    (markPhase tag p t).map (fun o => (o.tag, o.kind)) = t.map (fun o => (o.tag, o.kind)) := by
  simp only [markPhase, List.map_map]
  apply List.map_congr_left
  intro o _
  simp only [Function.comp]
  split <;> rfl

/-- An owner that posts its reply on a state whose host link is the admitted one has answered the request, and
everything outside the host link is as the owner left it. -/
theorem answers_post {s s' : State} {tag : Byte} {k : ReqKind} (h : s'.hli = (admitEntry tag k s).hli) (code : ReplyCode)
    (data : List Byte) :
    Answers s (startTx (post tag k code data s')) tag k code data ∧
      (startTx (post tag k code data s')).setHli s.hli = s'.setHli s.hli := by
  have hr := post_ready_ne tag k code data s'
  obtain ⟨h1, h2, h3⟩ := startTx_ready_link hr
  refine ⟨⟨?_, ?_, ?_⟩, ?_⟩
  · rw [h1]
    simp [Hli.records, post, enqueue, h, admitEntry, replyRecord, replyKind]
  · rw [h2]
    simp [Hli.requests, post, enqueue, h, admitEntry, markPhase_requests]
  · rw [h3]
    simp [post, enqueue, h, admitEntry]
  · rw [startTx_ready_setHli hr, post_setHli]

/-! ## A posted reply (R162) -/

theorem post_hli (tag : Byte) (k : ReqKind) (code : ReplyCode) (data : List Byte) (s : State) :
    (post tag k code data s).hli = s.hli.posted (replyOf tag (k.byte + 0x80#8) (code.byte :: data)) := rfl

theorem post_eq (tag : Byte) (k : ReqKind) (code : ReplyCode) (data : List Byte) (s : State) :
    post tag k code data s = s.setHli (s.hli.posted (replyOf tag (k.byte + 0x80#8) (code.byte :: data))) := rfl

end Sys2Proof.Machine
end

