-- ==== Sys2Proof/Laws/Ops.lean ====
section
/-!
SUPPORT. What each shared operation of the store, the collections and the host link leaves as it was: one lemma per field.
-/

namespace Sys2Proof.Machine

@[simp] theorem evalPool_pending (s : State) : (evalPool s).pending = s.pending := by
  rfl
@[simp] theorem evalPool_timebase (s : State) : (evalPool s).timebase = s.timebase := by
  rfl
@[simp] theorem evalPool_hli (s : State) : (evalPool s).hli = s.hli := by
  rfl
@[simp] theorem evalPool_drops (s : State) : (evalPool s).drops = s.drops := by
  rfl
@[simp] theorem evalPool_retire (s : State) : (evalPool s).retire = s.retire := by
  rfl
@[simp] theorem evalPool_lcA (s : State) : (evalPool s).lcA = s.lcA := by
  rfl
@[simp] theorem evalPool_lcB (s : State) : (evalPool s).lcB = s.lcB := by
  rfl
@[simp] theorem evalPool_drop (s : State) (j : Slot) : (evalPool s).drop j = s.drop j := by
  simp [State.drop]
@[simp] theorem evalPool_lc (s : State) (ln : Line) : (evalPool s).lc ln = s.lc ln := by
  cases ln <;> simp [State.lc]

@[simp] theorem evalInbox_pending (i : Slot) (s : State) : (evalInbox i s).pending = s.pending := by
  simp [evalInbox]
@[simp] theorem evalInbox_timebase (i : Slot) (s : State) : (evalInbox i s).timebase = s.timebase := by
  simp [evalInbox]
@[simp] theorem evalInbox_hli (i : Slot) (s : State) : (evalInbox i s).hli = s.hli := by
  simp [evalInbox]
@[simp] theorem evalInbox_drops (i : Slot) (s : State) : (evalInbox i s).drops = s.drops := by
  simp [evalInbox]
@[simp] theorem evalInbox_retire (i : Slot) (s : State) : (evalInbox i s).retire = s.retire := by
  simp [evalInbox]
@[simp] theorem evalInbox_store (i : Slot) (s : State) : (evalInbox i s).store = s.store := by
  simp [evalInbox]
@[simp] theorem evalInbox_lcA (i : Slot) (s : State) : (evalInbox i s).lcA = s.lcA := by
  simp [evalInbox]
@[simp] theorem evalInbox_lcB (i : Slot) (s : State) : (evalInbox i s).lcB = s.lcB := by
  simp [evalInbox]
@[simp] theorem evalInbox_drop (i : Slot) (s : State) (j : Slot) : (evalInbox i s).drop j = s.drop j := by
  simp [State.drop]
@[simp] theorem evalInbox_lc (i : Slot) (s : State) (ln : Line) : (evalInbox i s).lc ln = s.lc ln := by
  cases ln <;> simp [State.lc]

@[simp] theorem raiseDropState_pending (i : Slot) (s : State) : (raiseDropState i s).pending = s.pending := by
  simp [raiseDropState]
@[simp] theorem raiseDropState_timebase (i : Slot) (s : State) : (raiseDropState i s).timebase = s.timebase := by
  simp [raiseDropState]
@[simp] theorem raiseDropState_hli (i : Slot) (s : State) : (raiseDropState i s).hli = s.hli := by
  simp [raiseDropState]
@[simp] theorem raiseDropState_drops (i : Slot) (s : State) : (raiseDropState i s).drops = s.drops := by
  simp [raiseDropState]
@[simp] theorem raiseDropState_retire (i : Slot) (s : State) : (raiseDropState i s).retire = s.retire := by
  simp [raiseDropState]
@[simp] theorem raiseDropState_store (i : Slot) (s : State) : (raiseDropState i s).store = s.store := by
  simp [raiseDropState]
@[simp] theorem raiseDropState_lcA (i : Slot) (s : State) : (raiseDropState i s).lcA = s.lcA := by
  simp [raiseDropState]
@[simp] theorem raiseDropState_lcB (i : Slot) (s : State) : (raiseDropState i s).lcB = s.lcB := by
  simp [raiseDropState]
@[simp] theorem raiseDropState_drop (i : Slot) (s : State) (j : Slot) : (raiseDropState i s).drop j = s.drop j := by
  simp [State.drop]
@[simp] theorem raiseDropState_lc (i : Slot) (s : State) (ln : Line) : (raiseDropState i s).lc ln = s.lc ln := by
  cases ln <;> simp [State.lc]

@[simp] theorem raiseInboxAlert_pending (i : Slot) (s : State) : (raiseInboxAlert i s).pending = s.pending := by
  simp [raiseInboxAlert]
@[simp] theorem raiseInboxAlert_timebase (i : Slot) (s : State) : (raiseInboxAlert i s).timebase = s.timebase := by
  simp [raiseInboxAlert]
@[simp] theorem raiseInboxAlert_hli (i : Slot) (s : State) : (raiseInboxAlert i s).hli = s.hli := by
  simp [raiseInboxAlert]
@[simp] theorem raiseInboxAlert_drops (i : Slot) (s : State) : (raiseInboxAlert i s).drops = s.drops := by
  simp [raiseInboxAlert]
@[simp] theorem raiseInboxAlert_retire (i : Slot) (s : State) : (raiseInboxAlert i s).retire = s.retire := by
  simp [raiseInboxAlert]
@[simp] theorem raiseInboxAlert_store (i : Slot) (s : State) : (raiseInboxAlert i s).store = s.store := by
  simp [raiseInboxAlert]
@[simp] theorem raiseInboxAlert_lcA (i : Slot) (s : State) : (raiseInboxAlert i s).lcA = s.lcA := by
  simp [raiseInboxAlert]
@[simp] theorem raiseInboxAlert_lcB (i : Slot) (s : State) : (raiseInboxAlert i s).lcB = s.lcB := by
  simp [raiseInboxAlert]
@[simp] theorem raiseInboxAlert_drop (i : Slot) (s : State) (j : Slot) : (raiseInboxAlert i s).drop j = s.drop j := by
  simp [State.drop]
@[simp] theorem raiseInboxAlert_lc (i : Slot) (s : State) (ln : Line) : (raiseInboxAlert i s).lc ln = s.lc ln := by
  cases ln <;> simp [State.lc]

@[simp] theorem raiseOutboxLow_pending (i : Slot) (s : State) : (raiseOutboxLow i s).pending = s.pending := by
  simp [raiseOutboxLow]
@[simp] theorem raiseOutboxLow_timebase (i : Slot) (s : State) : (raiseOutboxLow i s).timebase = s.timebase := by
  simp [raiseOutboxLow]
@[simp] theorem raiseOutboxLow_hli (i : Slot) (s : State) : (raiseOutboxLow i s).hli = s.hli := by
  simp [raiseOutboxLow]
@[simp] theorem raiseOutboxLow_drops (i : Slot) (s : State) : (raiseOutboxLow i s).drops = s.drops := by
  simp [raiseOutboxLow]
@[simp] theorem raiseOutboxLow_retire (i : Slot) (s : State) : (raiseOutboxLow i s).retire = s.retire := by
  simp [raiseOutboxLow]
@[simp] theorem raiseOutboxLow_store (i : Slot) (s : State) : (raiseOutboxLow i s).store = s.store := by
  simp [raiseOutboxLow]
@[simp] theorem raiseOutboxLow_lcA (i : Slot) (s : State) : (raiseOutboxLow i s).lcA = s.lcA := by
  simp [raiseOutboxLow]
@[simp] theorem raiseOutboxLow_lcB (i : Slot) (s : State) : (raiseOutboxLow i s).lcB = s.lcB := by
  simp [raiseOutboxLow]
@[simp] theorem raiseOutboxLow_drop (i : Slot) (s : State) (j : Slot) : (raiseOutboxLow i s).drop j = s.drop j := by
  simp [State.drop]
@[simp] theorem raiseOutboxLow_lc (i : Slot) (s : State) (ln : Line) : (raiseOutboxLow i s).lc ln = s.lc ln := by
  cases ln <;> simp [State.lc]

@[simp] theorem raiseFailover_pending (l : Line) (m n : Nat) (s : State) : (raiseFailover l m n s).pending = s.pending := by
  simp [raiseFailover]
@[simp] theorem raiseFailover_timebase (l : Line) (m n : Nat) (s : State) : (raiseFailover l m n s).timebase = s.timebase := by
  simp [raiseFailover]
@[simp] theorem raiseFailover_hli (l : Line) (m n : Nat) (s : State) : (raiseFailover l m n s).hli = s.hli := by
  simp [raiseFailover]
@[simp] theorem raiseFailover_drops (l : Line) (m n : Nat) (s : State) : (raiseFailover l m n s).drops = s.drops := by
  simp [raiseFailover]
@[simp] theorem raiseFailover_retire (l : Line) (m n : Nat) (s : State) : (raiseFailover l m n s).retire = s.retire := by
  simp [raiseFailover]
@[simp] theorem raiseFailover_store (l : Line) (m n : Nat) (s : State) : (raiseFailover l m n s).store = s.store := by
  simp [raiseFailover]
@[simp] theorem raiseFailover_lcA (l : Line) (m n : Nat) (s : State) : (raiseFailover l m n s).lcA = s.lcA := by
  simp [raiseFailover]
@[simp] theorem raiseFailover_lcB (l : Line) (m n : Nat) (s : State) : (raiseFailover l m n s).lcB = s.lcB := by
  simp [raiseFailover]
@[simp] theorem raiseFailover_drop (l : Line) (m n : Nat) (s : State) (j : Slot) : (raiseFailover l m n s).drop j = s.drop j := by
  simp [State.drop]
@[simp] theorem raiseFailover_lc (l : Line) (m n : Nat) (s : State) (ln : Line) : (raiseFailover l m n s).lc ln = s.lc ln := by
  cases ln <;> simp [State.lc]

@[simp] theorem raiseBcastDropped_pending (l : Line) (n : Nat) (s : State) : (raiseBcastDropped l n s).pending = s.pending := by
  simp only [raiseBcastDropped]; (repeat' split) <;> simp
@[simp] theorem raiseBcastDropped_timebase (l : Line) (n : Nat) (s : State) : (raiseBcastDropped l n s).timebase = s.timebase := by
  simp only [raiseBcastDropped]; (repeat' split) <;> simp
@[simp] theorem raiseBcastDropped_hli (l : Line) (n : Nat) (s : State) : (raiseBcastDropped l n s).hli = s.hli := by
  simp only [raiseBcastDropped]; (repeat' split) <;> simp
@[simp] theorem raiseBcastDropped_drops (l : Line) (n : Nat) (s : State) : (raiseBcastDropped l n s).drops = s.drops := by
  simp only [raiseBcastDropped]; (repeat' split) <;> simp
@[simp] theorem raiseBcastDropped_retire (l : Line) (n : Nat) (s : State) : (raiseBcastDropped l n s).retire = s.retire := by
  simp only [raiseBcastDropped]; (repeat' split) <;> simp
@[simp] theorem raiseBcastDropped_store (l : Line) (n : Nat) (s : State) : (raiseBcastDropped l n s).store = s.store := by
  simp only [raiseBcastDropped]; (repeat' split) <;> simp
@[simp] theorem raiseBcastDropped_lcA (l : Line) (n : Nat) (s : State) : (raiseBcastDropped l n s).lcA = s.lcA := by
  simp only [raiseBcastDropped]; (repeat' split) <;> simp
@[simp] theorem raiseBcastDropped_lcB (l : Line) (n : Nat) (s : State) : (raiseBcastDropped l n s).lcB = s.lcB := by
  simp only [raiseBcastDropped]; (repeat' split) <;> simp
@[simp] theorem raiseBcastDropped_drop (l : Line) (n : Nat) (s : State) (j : Slot) : (raiseBcastDropped l n s).drop j = s.drop j := by
  simp [State.drop]
@[simp] theorem raiseBcastDropped_lc (l : Line) (n : Nat) (s : State) (ln : Line) : (raiseBcastDropped l n s).lc ln = s.lc ln := by
  cases ln <;> simp [State.lc]

@[simp] theorem raiseReplyLost_pending (s : State) : (raiseReplyLost s).pending = s.pending := by
  simp [raiseReplyLost]
@[simp] theorem raiseReplyLost_timebase (s : State) : (raiseReplyLost s).timebase = s.timebase := by
  simp [raiseReplyLost]
@[simp] theorem raiseReplyLost_hli (s : State) : (raiseReplyLost s).hli = s.hli := by
  simp [raiseReplyLost]
@[simp] theorem raiseReplyLost_drops (s : State) : (raiseReplyLost s).drops = s.drops := by
  simp [raiseReplyLost]
@[simp] theorem raiseReplyLost_retire (s : State) : (raiseReplyLost s).retire = s.retire := by
  simp [raiseReplyLost]
@[simp] theorem raiseReplyLost_store (s : State) : (raiseReplyLost s).store = s.store := by
  simp [raiseReplyLost]
@[simp] theorem raiseReplyLost_lcA (s : State) : (raiseReplyLost s).lcA = s.lcA := by
  simp [raiseReplyLost]
@[simp] theorem raiseReplyLost_lcB (s : State) : (raiseReplyLost s).lcB = s.lcB := by
  simp [raiseReplyLost]
@[simp] theorem raiseReplyLost_drop (s : State) (j : Slot) : (raiseReplyLost s).drop j = s.drop j := by
  simp [State.drop]
@[simp] theorem raiseReplyLost_lc (s : State) (ln : Line) : (raiseReplyLost s).lc ln = s.lc ln := by
  cases ln <;> simp [State.lc]

@[simp] theorem noticeSent_pending (c : Cond) (s : State) : (noticeSent c s).pending = s.pending := by
  cases c <;> rfl
@[simp] theorem noticeSent_timebase (c : Cond) (s : State) : (noticeSent c s).timebase = s.timebase := by
  cases c <;> rfl
@[simp] theorem noticeSent_hli (c : Cond) (s : State) : (noticeSent c s).hli = s.hli := by
  cases c <;> rfl
@[simp] theorem noticeSent_drops (c : Cond) (s : State) : (noticeSent c s).drops = s.drops := by
  cases c <;> rfl
@[simp] theorem noticeSent_retire (c : Cond) (s : State) : (noticeSent c s).retire = s.retire := by
  cases c <;> rfl
@[simp] theorem noticeSent_store (c : Cond) (s : State) : (noticeSent c s).store = s.store := by
  cases c <;> rfl
@[simp] theorem noticeSent_lcA (c : Cond) (s : State) : (noticeSent c s).lcA = s.lcA := by
  cases c <;> rfl
@[simp] theorem noticeSent_lcB (c : Cond) (s : State) : (noticeSent c s).lcB = s.lcB := by
  cases c <;> rfl
@[simp] theorem noticeSent_drop (c : Cond) (s : State) (j : Slot) : (noticeSent c s).drop j = s.drop j := by
  simp [State.drop]
@[simp] theorem noticeSent_lc (c : Cond) (s : State) (ln : Line) : (noticeSent c s).lc ln = s.lc ln := by
  cases ln <;> simp [State.lc]

@[simp] theorem giveBack_pending (cs rs : List Nat) (s : State) : (giveBack cs rs s).pending = s.pending := by
  simp [giveBack]
@[simp] theorem giveBack_timebase (cs rs : List Nat) (s : State) : (giveBack cs rs s).timebase = s.timebase := by
  simp [giveBack]
@[simp] theorem giveBack_hli (cs rs : List Nat) (s : State) : (giveBack cs rs s).hli = s.hli := by
  simp [giveBack]
@[simp] theorem giveBack_drops (cs rs : List Nat) (s : State) : (giveBack cs rs s).drops = s.drops := by
  simp [giveBack]
@[simp] theorem giveBack_retire (cs rs : List Nat) (s : State) : (giveBack cs rs s).retire = s.retire := by
  simp [giveBack]
@[simp] theorem giveBack_lcA (cs rs : List Nat) (s : State) : (giveBack cs rs s).lcA = s.lcA := by
  simp [giveBack]
@[simp] theorem giveBack_lcB (cs rs : List Nat) (s : State) : (giveBack cs rs s).lcB = s.lcB := by
  simp [giveBack]
@[simp] theorem giveBack_au (cs rs : List Nat) (s : State) : (giveBack cs rs s).au = s.au := by
  simp [giveBack]
@[simp] theorem giveBack_drop (cs rs : List Nat) (s : State) (j : Slot) : (giveBack cs rs s).drop j = s.drop j := by
  simp [State.drop]
@[simp] theorem giveBack_lc (cs rs : List Nat) (s : State) (ln : Line) : (giveBack cs rs s).lc ln = s.lc ln := by
  cases ln <;> simp [State.lc]

@[simp] theorem freeAll_pending (cs rs : List Nat) (s : State) : (freeAll cs rs s).pending = s.pending := by
  simp [freeAll]
@[simp] theorem freeAll_timebase (cs rs : List Nat) (s : State) : (freeAll cs rs s).timebase = s.timebase := by
  simp [freeAll]
@[simp] theorem freeAll_hli (cs rs : List Nat) (s : State) : (freeAll cs rs s).hli = s.hli := by
  simp [freeAll]
@[simp] theorem freeAll_drops (cs rs : List Nat) (s : State) : (freeAll cs rs s).drops = s.drops := by
  simp [freeAll]
@[simp] theorem freeAll_retire (cs rs : List Nat) (s : State) : (freeAll cs rs s).retire = s.retire := by
  simp [freeAll]
@[simp] theorem freeAll_lcA (cs rs : List Nat) (s : State) : (freeAll cs rs s).lcA = s.lcA := by
  simp [freeAll]
@[simp] theorem freeAll_lcB (cs rs : List Nat) (s : State) : (freeAll cs rs s).lcB = s.lcB := by
  simp [freeAll]
@[simp] theorem freeAll_drop (cs rs : List Nat) (s : State) (j : Slot) : (freeAll cs rs s).drop j = s.drop j := by
  simp [State.drop]
@[simp] theorem freeAll_lc (cs rs : List Nat) (s : State) (ln : Line) : (freeAll cs rs s).lc ln = s.lc ln := by
  cases ln <;> simp [State.lc]

@[simp] theorem takeAway_pending (m n : Nat) (s : State) : (takeAway m n s).pending = s.pending := by
  simp [takeAway]
@[simp] theorem takeAway_timebase (m n : Nat) (s : State) : (takeAway m n s).timebase = s.timebase := by
  simp [takeAway]
@[simp] theorem takeAway_hli (m n : Nat) (s : State) : (takeAway m n s).hli = s.hli := by
  simp [takeAway]
@[simp] theorem takeAway_drops (m n : Nat) (s : State) : (takeAway m n s).drops = s.drops := by
  simp [takeAway]
@[simp] theorem takeAway_retire (m n : Nat) (s : State) : (takeAway m n s).retire = s.retire := by
  simp [takeAway]
@[simp] theorem takeAway_lcA (m n : Nat) (s : State) : (takeAway m n s).lcA = s.lcA := by
  simp [takeAway]
@[simp] theorem takeAway_lcB (m n : Nat) (s : State) : (takeAway m n s).lcB = s.lcB := by
  simp [takeAway]
@[simp] theorem takeAway_drop (m n : Nat) (s : State) (j : Slot) : (takeAway m n s).drop j = s.drop j := by
  simp [State.drop]
@[simp] theorem takeAway_lc (m n : Nat) (s : State) (ln : Line) : (takeAway m n s).lc ln = s.lc ln := by
  cases ln <;> simp [State.lc]

@[simp] theorem acceptSegment_pending (i : Slot) (n : Delivered) (s : State) : (acceptSegment i n s).pending = s.pending := by
  simp only [acceptSegment]; (repeat' split) <;> simp
@[simp] theorem acceptSegment_timebase (i : Slot) (n : Delivered) (s : State) : (acceptSegment i n s).timebase = s.timebase := by
  simp only [acceptSegment]; (repeat' split) <;> simp
@[simp] theorem acceptSegment_hli (i : Slot) (n : Delivered) (s : State) : (acceptSegment i n s).hli = s.hli := by
  simp only [acceptSegment]; (repeat' split) <;> simp
@[simp] theorem acceptSegment_retire (i : Slot) (n : Delivered) (s : State) : (acceptSegment i n s).retire = s.retire := by
  simp only [acceptSegment]; (repeat' split) <;> simp
@[simp] theorem acceptSegment_lcA (i : Slot) (n : Delivered) (s : State) : (acceptSegment i n s).lcA = s.lcA := by
  simp only [acceptSegment]; (repeat' split) <;> simp
@[simp] theorem acceptSegment_lcB (i : Slot) (n : Delivered) (s : State) : (acceptSegment i n s).lcB = s.lcB := by
  simp only [acceptSegment]; (repeat' split) <;> simp
@[simp] theorem acceptSegment_lc (i : Slot) (n : Delivered) (s : State) (ln : Line) : (acceptSegment i n s).lc ln = s.lc ln := by
  cases ln <;> simp [State.lc]

@[simp] theorem joinInbox_pending (i : Slot) (m : InMsg) (s : State) : (joinInbox i m s).pending = s.pending := by
  simp only [joinInbox]; (repeat' split) <;> simp
@[simp] theorem joinInbox_timebase (i : Slot) (m : InMsg) (s : State) : (joinInbox i m s).timebase = s.timebase := by
  simp only [joinInbox]; (repeat' split) <;> simp
@[simp] theorem joinInbox_hli (i : Slot) (m : InMsg) (s : State) : (joinInbox i m s).hli = s.hli := by
  simp only [joinInbox]; (repeat' split) <;> simp
@[simp] theorem joinInbox_retire (i : Slot) (m : InMsg) (s : State) : (joinInbox i m s).retire = s.retire := by
  simp only [joinInbox]; (repeat' split) <;> simp
@[simp] theorem joinInbox_store (i : Slot) (m : InMsg) (s : State) : (joinInbox i m s).store = s.store := by
  simp only [joinInbox]; (repeat' split) <;> simp
@[simp] theorem joinInbox_lcA (i : Slot) (m : InMsg) (s : State) : (joinInbox i m s).lcA = s.lcA := by
  simp only [joinInbox]; (repeat' split) <;> simp
@[simp] theorem joinInbox_lcB (i : Slot) (m : InMsg) (s : State) : (joinInbox i m s).lcB = s.lcB := by
  simp only [joinInbox]; (repeat' split) <;> simp
@[simp] theorem joinInbox_lc (i : Slot) (m : InMsg) (s : State) (ln : Line) : (joinInbox i m s).lc ln = s.lc ln := by
  cases ln <;> simp [State.lc]

@[simp] theorem cutOff_pending (i : Slot) (s : State) : (cutOff i s).pending = s.pending := by
  simp only [cutOff]; (repeat' split) <;> simp
@[simp] theorem cutOff_timebase (i : Slot) (s : State) : (cutOff i s).timebase = s.timebase := by
  simp only [cutOff]; (repeat' split) <;> simp
@[simp] theorem cutOff_hli (i : Slot) (s : State) : (cutOff i s).hli = s.hli := by
  simp only [cutOff]; (repeat' split) <;> simp
@[simp] theorem cutOff_retire (i : Slot) (s : State) : (cutOff i s).retire = s.retire := by
  simp only [cutOff]; (repeat' split) <;> simp
@[simp] theorem cutOff_store (i : Slot) (s : State) : (cutOff i s).store = s.store := by
  simp only [cutOff]; (repeat' split) <;> simp
@[simp] theorem cutOff_lcA (i : Slot) (s : State) : (cutOff i s).lcA = s.lcA := by
  simp only [cutOff]; (repeat' split) <;> simp
@[simp] theorem cutOff_lcB (i : Slot) (s : State) : (cutOff i s).lcB = s.lcB := by
  simp only [cutOff]; (repeat' split) <;> simp
@[simp] theorem cutOff_lc (i : Slot) (s : State) (ln : Line) : (cutOff i s).lc ln = s.lc ln := by
  cases ln <;> simp [State.lc]

@[simp] theorem offerFirst_pending (i : Slot) (last : Bool) (data : List Byte) (s : State) : ((offerFirst i last data s).2).pending = s.pending := by
  simp only [offerFirst]; (repeat' split) <;> simp
@[simp] theorem offerFirst_timebase (i : Slot) (last : Bool) (data : List Byte) (s : State) : ((offerFirst i last data s).2).timebase = s.timebase := by
  simp only [offerFirst]; (repeat' split) <;> simp
@[simp] theorem offerFirst_hli (i : Slot) (last : Bool) (data : List Byte) (s : State) : ((offerFirst i last data s).2).hli = s.hli := by
  simp only [offerFirst]; (repeat' split) <;> simp
@[simp] theorem offerFirst_retire (i : Slot) (last : Bool) (data : List Byte) (s : State) : ((offerFirst i last data s).2).retire = s.retire := by
  simp only [offerFirst]; (repeat' split) <;> simp
@[simp] theorem offerFirst_lcA (i : Slot) (last : Bool) (data : List Byte) (s : State) : ((offerFirst i last data s).2).lcA = s.lcA := by
  simp only [offerFirst]; (repeat' split) <;> simp
@[simp] theorem offerFirst_lcB (i : Slot) (last : Bool) (data : List Byte) (s : State) : ((offerFirst i last data s).2).lcB = s.lcB := by
  simp only [offerFirst]; (repeat' split) <;> simp
@[simp] theorem offerFirst_lc (i : Slot) (last : Bool) (data : List Byte) (s : State) (ln : Line) : ((offerFirst i last data s).2).lc ln = s.lc ln := by
  cases ln <;> simp [State.lc]

@[simp] theorem offerContinuation_pending (i : Slot) (p : InMsg) (last : Bool) (data : List Byte) (s : State) : ((offerContinuation i p last data s).2).pending = s.pending := by
  simp only [offerContinuation]; (repeat' split) <;> simp
@[simp] theorem offerContinuation_timebase (i : Slot) (p : InMsg) (last : Bool) (data : List Byte) (s : State) : ((offerContinuation i p last data s).2).timebase = s.timebase := by
  simp only [offerContinuation]; (repeat' split) <;> simp
@[simp] theorem offerContinuation_hli (i : Slot) (p : InMsg) (last : Bool) (data : List Byte) (s : State) : ((offerContinuation i p last data s).2).hli = s.hli := by
  simp only [offerContinuation]; (repeat' split) <;> simp
@[simp] theorem offerContinuation_retire (i : Slot) (p : InMsg) (last : Bool) (data : List Byte) (s : State) : ((offerContinuation i p last data s).2).retire = s.retire := by
  simp only [offerContinuation]; (repeat' split) <;> simp
@[simp] theorem offerContinuation_lcA (i : Slot) (p : InMsg) (last : Bool) (data : List Byte) (s : State) : ((offerContinuation i p last data s).2).lcA = s.lcA := by
  simp only [offerContinuation]; (repeat' split) <;> simp
@[simp] theorem offerContinuation_lcB (i : Slot) (p : InMsg) (last : Bool) (data : List Byte) (s : State) : ((offerContinuation i p last data s).2).lcB = s.lcB := by
  simp only [offerContinuation]; (repeat' split) <;> simp
@[simp] theorem offerContinuation_lc (i : Slot) (p : InMsg) (last : Bool) (data : List Byte) (s : State) (ln : Line) : ((offerContinuation i p last data s).2).lc ln = s.lc ln := by
  cases ln <;> simp [State.lc]

@[simp] theorem offerSegment_pending (i : Slot) (first last : Bool) (data : List Byte) (s : State) : ((offerSegment i first last data s).2).pending = s.pending := by
  simp only [offerSegment]; (repeat' split) <;> simp
@[simp] theorem offerSegment_timebase (i : Slot) (first last : Bool) (data : List Byte) (s : State) : ((offerSegment i first last data s).2).timebase = s.timebase := by
  simp only [offerSegment]; (repeat' split) <;> simp
@[simp] theorem offerSegment_hli (i : Slot) (first last : Bool) (data : List Byte) (s : State) : ((offerSegment i first last data s).2).hli = s.hli := by
  simp only [offerSegment]; (repeat' split) <;> simp
@[simp] theorem offerSegment_retire (i : Slot) (first last : Bool) (data : List Byte) (s : State) : ((offerSegment i first last data s).2).retire = s.retire := by
  simp only [offerSegment]; (repeat' split) <;> simp
@[simp] theorem offerSegment_lcA (i : Slot) (first last : Bool) (data : List Byte) (s : State) : ((offerSegment i first last data s).2).lcA = s.lcA := by
  simp only [offerSegment]; (repeat' split) <;> simp
@[simp] theorem offerSegment_lcB (i : Slot) (first last : Bool) (data : List Byte) (s : State) : ((offerSegment i first last data s).2).lcB = s.lcB := by
  simp only [offerSegment]; (repeat' split) <;> simp
@[simp] theorem offerSegment_lc (i : Slot) (first last : Bool) (data : List Byte) (s : State) (ln : Line) : ((offerSegment i first last data s).2).lc ln = s.lc ln := by
  cases ln <;> simp [State.lc]

@[simp] theorem leaveLine_pending (l : Line) (i : Slot) (s : State) : (leaveLine l i s).pending = s.pending := by
  simp [leaveLine]
@[simp] theorem leaveLine_timebase (l : Line) (i : Slot) (s : State) : (leaveLine l i s).timebase = s.timebase := by
  simp [leaveLine]
@[simp] theorem leaveLine_hli (l : Line) (i : Slot) (s : State) : (leaveLine l i s).hli = s.hli := by
  simp [leaveLine]
@[simp] theorem leaveLine_drops (l : Line) (i : Slot) (s : State) : (leaveLine l i s).drops = s.drops := by
  simp [leaveLine]
@[simp] theorem leaveLine_retire (l : Line) (i : Slot) (s : State) : (leaveLine l i s).retire = s.retire := by
  simp [leaveLine]
@[simp] theorem leaveLine_store (l : Line) (i : Slot) (s : State) : (leaveLine l i s).store = s.store := by
  simp [leaveLine]
@[simp] theorem leaveLine_au (l : Line) (i : Slot) (s : State) : (leaveLine l i s).au = s.au := by
  simp [leaveLine]
@[simp] theorem leaveLine_drop (l : Line) (i : Slot) (s : State) (j : Slot) : (leaveLine l i s).drop j = s.drop j := by
  simp [State.drop]

@[simp] theorem joinRing_pending (l : Line) (i : Slot) (s : State) : (joinRing l i s).pending = s.pending := by
  simp [joinRing]
@[simp] theorem joinRing_timebase (l : Line) (i : Slot) (s : State) : (joinRing l i s).timebase = s.timebase := by
  simp [joinRing]
@[simp] theorem joinRing_hli (l : Line) (i : Slot) (s : State) : (joinRing l i s).hli = s.hli := by
  simp [joinRing]
@[simp] theorem joinRing_drops (l : Line) (i : Slot) (s : State) : (joinRing l i s).drops = s.drops := by
  simp [joinRing]
@[simp] theorem joinRing_retire (l : Line) (i : Slot) (s : State) : (joinRing l i s).retire = s.retire := by
  simp [joinRing]
@[simp] theorem joinRing_store (l : Line) (i : Slot) (s : State) : (joinRing l i s).store = s.store := by
  simp [joinRing]
@[simp] theorem joinRing_au (l : Line) (i : Slot) (s : State) : (joinRing l i s).au = s.au := by
  simp [joinRing]
@[simp] theorem joinRing_drop (l : Line) (i : Slot) (s : State) (j : Slot) : (joinRing l i s).drop j = s.drop j := by
  simp [State.drop]

@[simp] theorem ringToProbe_pending (l : Line) (i : Slot) (s : State) : (ringToProbe l i s).pending = s.pending := by
  simp [ringToProbe]
@[simp] theorem ringToProbe_timebase (l : Line) (i : Slot) (s : State) : (ringToProbe l i s).timebase = s.timebase := by
  simp [ringToProbe]
@[simp] theorem ringToProbe_hli (l : Line) (i : Slot) (s : State) : (ringToProbe l i s).hli = s.hli := by
  simp [ringToProbe]
@[simp] theorem ringToProbe_drops (l : Line) (i : Slot) (s : State) : (ringToProbe l i s).drops = s.drops := by
  simp [ringToProbe]
@[simp] theorem ringToProbe_retire (l : Line) (i : Slot) (s : State) : (ringToProbe l i s).retire = s.retire := by
  simp [ringToProbe]
@[simp] theorem ringToProbe_store (l : Line) (i : Slot) (s : State) : (ringToProbe l i s).store = s.store := by
  simp [ringToProbe]
@[simp] theorem ringToProbe_au (l : Line) (i : Slot) (s : State) : (ringToProbe l i s).au = s.au := by
  simp [ringToProbe]
@[simp] theorem ringToProbe_drop (l : Line) (i : Slot) (s : State) (j : Slot) : (ringToProbe l i s).drop j = s.drop j := by
  simp [State.drop]

@[simp] theorem probeToRing_pending (l : Line) (i : Slot) (s : State) : (probeToRing l i s).pending = s.pending := by
  simp [probeToRing]
@[simp] theorem probeToRing_timebase (l : Line) (i : Slot) (s : State) : (probeToRing l i s).timebase = s.timebase := by
  simp [probeToRing]
@[simp] theorem probeToRing_hli (l : Line) (i : Slot) (s : State) : (probeToRing l i s).hli = s.hli := by
  simp [probeToRing]
@[simp] theorem probeToRing_drops (l : Line) (i : Slot) (s : State) : (probeToRing l i s).drops = s.drops := by
  simp [probeToRing]
@[simp] theorem probeToRing_retire (l : Line) (i : Slot) (s : State) : (probeToRing l i s).retire = s.retire := by
  simp [probeToRing]
@[simp] theorem probeToRing_store (l : Line) (i : Slot) (s : State) : (probeToRing l i s).store = s.store := by
  simp [probeToRing]
@[simp] theorem probeToRing_au (l : Line) (i : Slot) (s : State) : (probeToRing l i s).au = s.au := by
  simp [probeToRing]
@[simp] theorem probeToRing_drop (l : Line) (i : Slot) (s : State) (j : Slot) : (probeToRing l i s).drop j = s.drop j := by
  simp [State.drop]

@[simp] theorem probeRequeue_pending (l : Line) (i : Slot) (s : State) : (probeRequeue l i s).pending = s.pending := by
  simp [probeRequeue]
@[simp] theorem probeRequeue_timebase (l : Line) (i : Slot) (s : State) : (probeRequeue l i s).timebase = s.timebase := by
  simp [probeRequeue]
@[simp] theorem probeRequeue_hli (l : Line) (i : Slot) (s : State) : (probeRequeue l i s).hli = s.hli := by
  simp [probeRequeue]
@[simp] theorem probeRequeue_drops (l : Line) (i : Slot) (s : State) : (probeRequeue l i s).drops = s.drops := by
  simp [probeRequeue]
@[simp] theorem probeRequeue_retire (l : Line) (i : Slot) (s : State) : (probeRequeue l i s).retire = s.retire := by
  simp [probeRequeue]
@[simp] theorem probeRequeue_store (l : Line) (i : Slot) (s : State) : (probeRequeue l i s).store = s.store := by
  simp [probeRequeue]
@[simp] theorem probeRequeue_au (l : Line) (i : Slot) (s : State) : (probeRequeue l i s).au = s.au := by
  simp [probeRequeue]
@[simp] theorem probeRequeue_drop (l : Line) (i : Slot) (s : State) (j : Slot) : (probeRequeue l i s).drop j = s.drop j := by
  simp [State.drop]

@[simp] theorem dropDone_pending (bs : List Bcast) (s : State) : (dropDone bs s).pending = s.pending := by
  simp only [dropDone]; (repeat' split) <;> simp
@[simp] theorem dropDone_timebase (bs : List Bcast) (s : State) : (dropDone bs s).timebase = s.timebase := by
  simp only [dropDone]; (repeat' split) <;> simp
@[simp] theorem dropDone_hli (bs : List Bcast) (s : State) : (dropDone bs s).hli = s.hli := by
  simp only [dropDone]; (repeat' split) <;> simp
@[simp] theorem dropDone_drops (bs : List Bcast) (s : State) : (dropDone bs s).drops = s.drops := by
  simp only [dropDone]; (repeat' split) <;> simp
@[simp] theorem dropDone_retire (bs : List Bcast) (s : State) : (dropDone bs s).retire = s.retire := by
  simp only [dropDone]; (repeat' split) <;> simp
@[simp] theorem dropDone_lcA (bs : List Bcast) (s : State) : (dropDone bs s).lcA = s.lcA := by
  simp only [dropDone]; (repeat' split) <;> simp
@[simp] theorem dropDone_lcB (bs : List Bcast) (s : State) : (dropDone bs s).lcB = s.lcB := by
  simp only [dropDone]; (repeat' split) <;> simp
@[simp] theorem dropDone_drop (bs : List Bcast) (s : State) (j : Slot) : (dropDone bs s).drop j = s.drop j := by
  simp [State.drop]
@[simp] theorem dropDone_lc (bs : List Bcast) (s : State) (ln : Line) : (dropDone bs s).lc ln = s.lc ln := by
  cases ln <;> simp [State.lc]

@[simp] theorem takeOff_pending (l : Line) (b : Bcast) (s : State) : (takeOff l b s).pending = s.pending := by
  simp [takeOff]
@[simp] theorem takeOff_timebase (l : Line) (b : Bcast) (s : State) : (takeOff l b s).timebase = s.timebase := by
  simp [takeOff]
@[simp] theorem takeOff_hli (l : Line) (b : Bcast) (s : State) : (takeOff l b s).hli = s.hli := by
  simp [takeOff]
@[simp] theorem takeOff_drops (l : Line) (b : Bcast) (s : State) : (takeOff l b s).drops = s.drops := by
  simp [takeOff]
@[simp] theorem takeOff_retire (l : Line) (b : Bcast) (s : State) : (takeOff l b s).retire = s.retire := by
  simp [takeOff]
@[simp] theorem takeOff_lcA (l : Line) (b : Bcast) (s : State) : (takeOff l b s).lcA = s.lcA := by
  simp [takeOff]
@[simp] theorem takeOff_lcB (l : Line) (b : Bcast) (s : State) : (takeOff l b s).lcB = s.lcB := by
  simp [takeOff]
@[simp] theorem takeOff_drop (l : Line) (b : Bcast) (s : State) (j : Slot) : (takeOff l b s).drop j = s.drop j := by
  simp [State.drop]
@[simp] theorem takeOff_lc (l : Line) (b : Bcast) (s : State) (ln : Line) : (takeOff l b s).lc ln = s.lc ln := by
  cases ln <;> simp [State.lc]

@[simp] theorem discardBcasts_pending (l : Line) (s : State) : (discardBcasts l s).pending = s.pending := by
  simp [discardBcasts]
@[simp] theorem discardBcasts_timebase (l : Line) (s : State) : (discardBcasts l s).timebase = s.timebase := by
  simp [discardBcasts]
@[simp] theorem discardBcasts_hli (l : Line) (s : State) : (discardBcasts l s).hli = s.hli := by
  simp [discardBcasts]
@[simp] theorem discardBcasts_drops (l : Line) (s : State) : (discardBcasts l s).drops = s.drops := by
  simp [discardBcasts]
@[simp] theorem discardBcasts_retire (l : Line) (s : State) : (discardBcasts l s).retire = s.retire := by
  simp [discardBcasts]
@[simp] theorem discardBcasts_lcA (l : Line) (s : State) : (discardBcasts l s).lcA = s.lcA := by
  simp [discardBcasts]
@[simp] theorem discardBcasts_lcB (l : Line) (s : State) : (discardBcasts l s).lcB = s.lcB := by
  simp [discardBcasts]
@[simp] theorem discardBcasts_drop (l : Line) (s : State) (j : Slot) : (discardBcasts l s).drop j = s.drop j := by
  simp [State.drop]
@[simp] theorem discardBcasts_lc (l : Line) (s : State) (ln : Line) : (discardBcasts l s).lc ln = s.lc ln := by
  cases ln <;> simp [State.lc]

@[simp] theorem enqueue_pending (r : OutRecord) (s : State) : (enqueue r s).pending = s.pending := by
  simp [enqueue]
@[simp] theorem enqueue_timebase (r : OutRecord) (s : State) : (enqueue r s).timebase = s.timebase := by
  simp [enqueue]
@[simp] theorem enqueue_drops (r : OutRecord) (s : State) : (enqueue r s).drops = s.drops := by
  simp [enqueue]
@[simp] theorem enqueue_retire (r : OutRecord) (s : State) : (enqueue r s).retire = s.retire := by
  simp [enqueue]
@[simp] theorem enqueue_store (r : OutRecord) (s : State) : (enqueue r s).store = s.store := by
  simp [enqueue]
@[simp] theorem enqueue_lcA (r : OutRecord) (s : State) : (enqueue r s).lcA = s.lcA := by
  simp [enqueue]
@[simp] theorem enqueue_lcB (r : OutRecord) (s : State) : (enqueue r s).lcB = s.lcB := by
  simp [enqueue]
@[simp] theorem enqueue_au (r : OutRecord) (s : State) : (enqueue r s).au = s.au := by
  simp [enqueue]
@[simp] theorem enqueue_drop (r : OutRecord) (s : State) (j : Slot) : (enqueue r s).drop j = s.drop j := by
  simp [State.drop]
@[simp] theorem enqueue_lc (r : OutRecord) (s : State) (ln : Line) : (enqueue r s).lc ln = s.lc ln := by
  cases ln <;> simp [State.lc]

@[simp] theorem post_pending (t : Byte) (k : ReqKind) (c : ReplyCode) (d : List Byte) (s : State) : (post t k c d s).pending = s.pending := by
  simp [post]
@[simp] theorem post_timebase (t : Byte) (k : ReqKind) (c : ReplyCode) (d : List Byte) (s : State) : (post t k c d s).timebase = s.timebase := by
  simp [post]
@[simp] theorem post_drops (t : Byte) (k : ReqKind) (c : ReplyCode) (d : List Byte) (s : State) : (post t k c d s).drops = s.drops := by
  simp [post]
@[simp] theorem post_retire (t : Byte) (k : ReqKind) (c : ReplyCode) (d : List Byte) (s : State) : (post t k c d s).retire = s.retire := by
  simp [post]
@[simp] theorem post_store (t : Byte) (k : ReqKind) (c : ReplyCode) (d : List Byte) (s : State) : (post t k c d s).store = s.store := by
  simp [post]
@[simp] theorem post_lcA (t : Byte) (k : ReqKind) (c : ReplyCode) (d : List Byte) (s : State) : (post t k c d s).lcA = s.lcA := by
  simp [post]
@[simp] theorem post_lcB (t : Byte) (k : ReqKind) (c : ReplyCode) (d : List Byte) (s : State) : (post t k c d s).lcB = s.lcB := by
  simp [post]
@[simp] theorem post_au (t : Byte) (k : ReqKind) (c : ReplyCode) (d : List Byte) (s : State) : (post t k c d s).au = s.au := by
  simp [post]
@[simp] theorem post_drop (t : Byte) (k : ReqKind) (c : ReplyCode) (d : List Byte) (s : State) (j : Slot) : (post t k c d s).drop j = s.drop j := by
  simp [State.drop]
@[simp] theorem post_lc (t : Byte) (k : ReqKind) (c : ReplyCode) (d : List Byte) (s : State) (ln : Line) : (post t k c d s).lc ln = s.lc ln := by
  cases ln <;> simp [State.lc]

@[simp] theorem immediate_pending (t k : Byte) (c : ReplyCode) (s : State) : (immediate t k c s).pending = s.pending := by
  simp only [immediate]; (repeat' split) <;> simp
@[simp] theorem immediate_timebase (t k : Byte) (c : ReplyCode) (s : State) : (immediate t k c s).timebase = s.timebase := by
  simp only [immediate]; (repeat' split) <;> simp
@[simp] theorem immediate_drops (t k : Byte) (c : ReplyCode) (s : State) : (immediate t k c s).drops = s.drops := by
  simp only [immediate]; (repeat' split) <;> simp
@[simp] theorem immediate_retire (t k : Byte) (c : ReplyCode) (s : State) : (immediate t k c s).retire = s.retire := by
  simp only [immediate]; (repeat' split) <;> simp
@[simp] theorem immediate_store (t k : Byte) (c : ReplyCode) (s : State) : (immediate t k c s).store = s.store := by
  simp only [immediate]; (repeat' split) <;> simp
@[simp] theorem immediate_lcA (t k : Byte) (c : ReplyCode) (s : State) : (immediate t k c s).lcA = s.lcA := by
  simp only [immediate]; (repeat' split) <;> simp
@[simp] theorem immediate_lcB (t k : Byte) (c : ReplyCode) (s : State) : (immediate t k c s).lcB = s.lcB := by
  simp only [immediate]; (repeat' split) <;> simp
@[simp] theorem immediate_drop (t k : Byte) (c : ReplyCode) (s : State) (j : Slot) : (immediate t k c s).drop j = s.drop j := by
  simp [State.drop]
@[simp] theorem immediate_lc (t k : Byte) (c : ReplyCode) (s : State) (ln : Line) : (immediate t k c s).lc ln = s.lc ln := by
  cases ln <;> simp [State.lc]

end Sys2Proof.Machine
end

