-- ==== Sys2Proof/Laws/Moves.lean ====
section
/-!
SUPPORT. What moving and retiring leave as they were: one lemma per field.
-/

namespace Sys2Proof.Machine

@[simp] theorem relocate_pending (i : Slot) (l : Line) (a : Byte) (s : State) : (relocate i l a s).pending = s.pending := by
  simp [relocate]
@[simp] theorem relocate_timebase (i : Slot) (l : Line) (a : Byte) (s : State) : (relocate i l a s).timebase = s.timebase := by
  simp [relocate]
@[simp] theorem relocate_hli (i : Slot) (l : Line) (a : Byte) (s : State) : (relocate i l a s).hli = s.hli := by
  simp [relocate]
@[simp] theorem relocate_retire (i : Slot) (l : Line) (a : Byte) (s : State) : (relocate i l a s).retire = s.retire := by
  simp [relocate]
@[simp] theorem relocate_store (i : Slot) (l : Line) (a : Byte) (s : State) : (relocate i l a s).store = s.store := by
  simp [relocate]

@[simp] theorem applyMove_pending (i : Slot) (l : Line) (a : Byte) (h : Bool) (s : State) : (applyMove i l a h s).pending = s.pending := by
  simp [applyMove]
@[simp] theorem applyMove_timebase (i : Slot) (l : Line) (a : Byte) (h : Bool) (s : State) : (applyMove i l a h s).timebase = s.timebase := by
  simp [applyMove]
@[simp] theorem applyMove_hli (i : Slot) (l : Line) (a : Byte) (h : Bool) (s : State) : (applyMove i l a h s).hli = s.hli := by
  simp [applyMove]
@[simp] theorem applyMove_retire (i : Slot) (l : Line) (a : Byte) (h : Bool) (s : State) : (applyMove i l a h s).retire = s.retire := by
  simp [applyMove]
@[simp] theorem applyMove_store (i : Slot) (l : Line) (a : Byte) (h : Bool) (s : State) : (applyMove i l a h s).store = s.store := by
  simp [applyMove]

@[simp] theorem settlePendingMove_pending (i : Slot) (s : State) : (settlePendingMove i s).pending = s.pending := by
  simp only [settlePendingMove]; (repeat' split) <;> simp
@[simp] theorem settlePendingMove_timebase (i : Slot) (s : State) : (settlePendingMove i s).timebase = s.timebase := by
  simp only [settlePendingMove]; (repeat' split) <;> simp
@[simp] theorem settlePendingMove_retire (i : Slot) (s : State) : (settlePendingMove i s).retire = s.retire := by
  simp only [settlePendingMove]; (repeat' split) <;> simp
@[simp] theorem settlePendingMove_store (i : Slot) (s : State) : (settlePendingMove i s).store = s.store := by
  simp only [settlePendingMove]; (repeat' split) <;> simp

@[simp] theorem abandonMove_pending (m : Option PendingMove) (s : State) : (abandonMove m s).pending = s.pending := by
  simp only [abandonMove]; (repeat' split) <;> simp
@[simp] theorem abandonMove_timebase (m : Option PendingMove) (s : State) : (abandonMove m s).timebase = s.timebase := by
  simp only [abandonMove]; (repeat' split) <;> simp
@[simp] theorem abandonMove_drops (m : Option PendingMove) (s : State) : (abandonMove m s).drops = s.drops := by
  simp only [abandonMove]; (repeat' split) <;> simp
@[simp] theorem abandonMove_retire (m : Option PendingMove) (s : State) : (abandonMove m s).retire = s.retire := by
  simp only [abandonMove]; (repeat' split) <;> simp
@[simp] theorem abandonMove_store (m : Option PendingMove) (s : State) : (abandonMove m s).store = s.store := by
  simp only [abandonMove]; (repeat' split) <;> simp
@[simp] theorem abandonMove_lcA (m : Option PendingMove) (s : State) : (abandonMove m s).lcA = s.lcA := by
  simp only [abandonMove]; (repeat' split) <;> simp
@[simp] theorem abandonMove_lcB (m : Option PendingMove) (s : State) : (abandonMove m s).lcB = s.lcB := by
  simp only [abandonMove]; (repeat' split) <;> simp
@[simp] theorem abandonMove_au (m : Option PendingMove) (s : State) : (abandonMove m s).au = s.au := by
  simp only [abandonMove]; (repeat' split) <;> simp
@[simp] theorem abandonMove_drop (m : Option PendingMove) (s : State) (j : Slot) : (abandonMove m s).drop j = s.drop j := by
  simp [State.drop]
@[simp] theorem abandonMove_lc (m : Option PendingMove) (s : State) (ln : Line) : (abandonMove m s).lc ln = s.lc ln := by
  cases ln <;> simp [State.lc]

@[simp] theorem beginRetiring_pending (i : Slot) (s : State) : (beginRetiring i s).pending = s.pending := by
  simp [beginRetiring]
@[simp] theorem beginRetiring_timebase (i : Slot) (s : State) : (beginRetiring i s).timebase = s.timebase := by
  simp [beginRetiring]
@[simp] theorem beginRetiring_retire (i : Slot) (s : State) : (beginRetiring i s).retire = s.retire := by
  simp [beginRetiring]

@[simp] theorem toVacant_pending (i : Slot) (s : State) : (toVacant i s).pending = s.pending := by
  simp [toVacant]
@[simp] theorem toVacant_timebase (i : Slot) (s : State) : (toVacant i s).timebase = s.timebase := by
  simp [toVacant]
@[simp] theorem toVacant_hli (i : Slot) (s : State) : (toVacant i s).hli = s.hli := by
  simp [toVacant]
@[simp] theorem toVacant_retire (i : Slot) (s : State) : (toVacant i s).retire = s.retire := by
  simp [toVacant]
@[simp] theorem toVacant_store (i : Slot) (s : State) : (toVacant i s).store = s.store := by
  simp [toVacant]
@[simp] theorem toVacant_lcA (i : Slot) (s : State) : (toVacant i s).lcA = s.lcA := by
  simp [toVacant]
@[simp] theorem toVacant_lcB (i : Slot) (s : State) : (toVacant i s).lcB = s.lcB := by
  simp [toVacant]
@[simp] theorem toVacant_au (i : Slot) (s : State) : (toVacant i s).au = s.au := by
  simp [toVacant]
@[simp] theorem toVacant_lc (i : Slot) (s : State) (ln : Line) : (toVacant i s).lc ln = s.lc ln := by
  cases ln <;> simp [State.lc]

@[simp] theorem answerCancel_pending (t : Option Byte) (s : State) : (answerCancel t s).pending = s.pending := by
  simp only [answerCancel]; (repeat' split) <;> simp
@[simp] theorem answerCancel_timebase (t : Option Byte) (s : State) : (answerCancel t s).timebase = s.timebase := by
  simp only [answerCancel]; (repeat' split) <;> simp
@[simp] theorem answerCancel_drops (t : Option Byte) (s : State) : (answerCancel t s).drops = s.drops := by
  simp only [answerCancel]; (repeat' split) <;> simp
@[simp] theorem answerCancel_retire (t : Option Byte) (s : State) : (answerCancel t s).retire = s.retire := by
  simp only [answerCancel]; (repeat' split) <;> simp
@[simp] theorem answerCancel_store (t : Option Byte) (s : State) : (answerCancel t s).store = s.store := by
  simp only [answerCancel]; (repeat' split) <;> simp
@[simp] theorem answerCancel_lcA (t : Option Byte) (s : State) : (answerCancel t s).lcA = s.lcA := by
  simp only [answerCancel]; (repeat' split) <;> simp
@[simp] theorem answerCancel_lcB (t : Option Byte) (s : State) : (answerCancel t s).lcB = s.lcB := by
  simp only [answerCancel]; (repeat' split) <;> simp
@[simp] theorem answerCancel_au (t : Option Byte) (s : State) : (answerCancel t s).au = s.au := by
  simp only [answerCancel]; (repeat' split) <;> simp
@[simp] theorem answerCancel_drop (t : Option Byte) (s : State) (j : Slot) : (answerCancel t s).drop j = s.drop j := by
  simp [State.drop]
@[simp] theorem answerCancel_lc (t : Option Byte) (s : State) (ln : Line) : (answerCancel t s).lc ln = s.lc ln := by
  cases ln <;> simp [State.lc]

@[simp] theorem endRetire_pending (o : RetireOp) (c : ReplyCode) (d : List Byte) (s : State) : (endRetire o c d s).pending = s.pending := by
  simp [endRetire]
@[simp] theorem endRetire_timebase (o : RetireOp) (c : ReplyCode) (d : List Byte) (s : State) : (endRetire o c d s).timebase = s.timebase := by
  simp [endRetire]
@[simp] theorem endRetire_drops (o : RetireOp) (c : ReplyCode) (d : List Byte) (s : State) : (endRetire o c d s).drops = s.drops := by
  simp [endRetire]
@[simp] theorem endRetire_store (o : RetireOp) (c : ReplyCode) (d : List Byte) (s : State) : (endRetire o c d s).store = s.store := by
  simp [endRetire]
@[simp] theorem endRetire_lcA (o : RetireOp) (c : ReplyCode) (d : List Byte) (s : State) : (endRetire o c d s).lcA = s.lcA := by
  simp [endRetire]
@[simp] theorem endRetire_lcB (o : RetireOp) (c : ReplyCode) (d : List Byte) (s : State) : (endRetire o c d s).lcB = s.lcB := by
  simp [endRetire]
@[simp] theorem endRetire_au (o : RetireOp) (c : ReplyCode) (d : List Byte) (s : State) : (endRetire o c d s).au = s.au := by
  simp [endRetire]
@[simp] theorem endRetire_drop (o : RetireOp) (c : ReplyCode) (d : List Byte) (s : State) (j : Slot) : (endRetire o c d s).drop j = s.drop j := by
  simp [State.drop]
@[simp] theorem endRetire_lc (o : RetireOp) (c : ReplyCode) (d : List Byte) (s : State) (ln : Line) : (endRetire o c d s).lc ln = s.lc ln := by
  cases ln <;> simp [State.lc]

end Sys2Proof.Machine
end

