-- ==== Sys2Proof/Laws/Retire.lean ====
section
/-!
SUPPORT. What retirement does, in the words of the statements: the start of a slot's retirement, and the retire operation
from its record on (R55 to R58).
-/

namespace Sys2Proof.Machine

/-- Freeing: the free lists, the hold state, and no per-drop or per-line instance. -/
theorem freeAll_facts (cells recs : List Nat) (s : State) :
    (freeAll cells recs s).store = { s.store with
        freeCells := s.store.freeCells ++ cells, freeRecords := s.store.freeRecords ++ recs
        hold := if (s.store.freeCells ++ cells).length ≤ s.store.holdMark.toNat then true
          else if s.store.resumeMark.toNat ≤ (s.store.freeCells ++ cells).length then false else s.store.hold } ∧
      ∀ i, SameAttnBut i s (freeAll cells recs s) ∧ (freeAll cells recs s).au.slot i = s.au.slot i :=
  ⟨rfl, fun _ => ⟨⟨fun _ _ => rfl, fun l => by cases l <;> rfl⟩, rfl⟩⟩

/-- The start of a slot's retirement, in the words of the statements. -/
theorem beginRetiring_facts (i : Slot) (s : State) : BeginsRetiring i s (beginRetiring i s) := by
  refine ⟨?_, fun j hj => ?_, by simp, fun m => ?_, ?_, ?_, ⟨fun j hj => ?_, fun m => ?_⟩, ?_⟩
  · simp [beginRetiring, Drop.stripped]
  · simp [beginRetiring, modDrop_drop_ne (Ne.symm hj)]
  · simp only [beginRetiring, leaveLine]
    simp only [modSlotAttn_lc, freeAll_lc, abandonMove_lc, modLc_lc, modDrop_lc]
    split <;> rename_i h <;> simp [h]
  · simp only [beginRetiring, modSlotAttn_store, (freeAll_facts _ _ _).1]
    simp
  · simp [beginRetiring]
  · simp only [beginRetiring, modSlotAttn_au, modSlot_slot_ne hj, ((freeAll_facts _ _ _).2 i).1.1 j hj]
    simp
  · simp only [beginRetiring, modSlotAttn_au, modSlot_line, ((freeAll_facts _ _ _).2 i).1.2 m]
    simp
  · cases h : (s.drop i).pendingMove <;> simp [beginRetiring, abandonMove, h, post_hli] <;> rfl

/-- The start of a slot's retirement reads nothing of the retire operation's record. -/
theorem beginRetiring_setRetire (i : Slot) (r : Option RetireOp) (s : State) :
    beginRetiring i (s.setRetire r) = (beginRetiring i s).setRetire r := by
  simp only [beginRetiring, setRetire_drop]
  cases (s.drop i).pendingMove <;> cases (s.drop i).currentLine <;> rfl

/-- The retire operation goes on from its record, in the words of the statements. -/
theorem runRetire_goesOn : ∀ (fuel : Nat) (op : RetireOp) (s : State), op.cancelTag = none → 1 ≤ fuel →
    65 ≤ fuel + op.next → RetireGoesOn op s (runRetire fuel (s.setRetire (some op))) := by
  intro fuel
  induction fuel with
  | zero => intro op s _ h; omega
  | succ fuel ih =>
    intro op s hc _ hf
    have hp : op.counted.cancelTag = none := hc
    rw [runRetire]
    simp only [setRetire_retire]
    by_cases hd : op.completed = op.count
    · rw [if_pos hd]
      have : endRetire op .ok [byteOf op.completed] (s.setRetire (some op)) = (s.setRetire none).setHli
          (s.hli.posted (replyOf op.tag 0x95#8 [0x00#8, BitVec.ofNat 8 op.count])) := by
        simp [endRetire, answerCancel, hc, post_eq, hd]; rfl
      rw [this]
      exact .ends op s hd
    · rw [if_neg hd, if_neg (by simp [hc])]
      by_cases hn : op.next < 64
      · have hs : slotOfNat op.next = some ⟨op.next, hn⟩ := by simp [slotOfNat, hn]
        simp only [hs, setRetire_drop]
        have hih : ∀ u : State, RetireGoesOn op.passed u (runRetire fuel (u.setRetire (some op.counted))) :=
          fun u => ih op.counted u hp (by omega) (by simp [RetireOp.counted]; omega)
        have hb := beginRetiring_facts ⟨op.next, hn⟩ s
        have hcomm := beginRetiring_setRetire ⟨op.next, hn⟩ (some op) s
        by_cases hv : (s.drop ⟨op.next, hn⟩).state = .vacant
        · simp only [hv, if_true]
          exact .vacant op s _ ⟨op.next, hn⟩ hd rfl hv (hih s)
        · simp only [hv, if_false]
          by_cases hl : (s.drop ⟨op.next, hn⟩).state.live = true
          · by_cases hi : (s.drop ⟨op.next, hn⟩).link.inFlight = true
            · simp only [hl, hi, if_true, hcomm]
              exact .waits op s _ ⟨op.next, hn⟩ hd rfl hl hi hb
            · simp only [hl, hi, if_true, hcomm]
              refine .idle op s _ _ ⟨op.next, hn⟩ hd rfl hl (by simpa using hi) hb ?_
              have e : toVacant ⟨op.next, hn⟩ ((beginRetiring ⟨op.next, hn⟩ s).setRetire (some op)) =
                  ((beginRetiring ⟨op.next, hn⟩ s).setDrop ⟨op.next, hn⟩
                    (.vacant (s.drop ⟨op.next, hn⟩).generation)).setRetire (some op) := by
                have hg : ((beginRetiring ⟨op.next, hn⟩ s).drop ⟨op.next, hn⟩).generation =
                    (s.drop ⟨op.next, hn⟩).generation := by rw [hb.1]
                rw [← hg]; rfl
              rw [e]
              exact hih _
          · simp only [hl]
            refine .stands op s hd (fun i h => ?_)
            have : i = ⟨op.next, hn⟩ := Fin.ext h.symm
            subst this
            revert hl hv
            generalize (s.drop ⟨op.next, hn⟩).state = st
            cases st <;> simp [DropState.live]
      · have hs : slotOfNat op.next = none := by simp [slotOfNat, hn]
        simp only [hs]
        exact .stands op s hd (fun i h => absurd i.isLt (by omega))

/-! ## The range up to the first drop in flight (R55) -/

/-- The slots from `a` up to below `k` whose drops live, in slot order. -/
def State.liveBetween (s : State) (a k : Nat) : List Slot :=
  (List.finRange 64).filter (fun i => decide (a ≤ i.val ∧ i.val < k) && (s.drop i).state.live)

theorem mem_liveBetween {s : State} {a k : Nat} {i : Slot} :
    i ∈ s.liveBetween a k ↔ (a ≤ i.val ∧ i.val < k) ∧ (s.drop i).state.live = true := by
  simp [State.liveBetween]

/-- The live slots of a range from its first slot on. -/
theorem liveBetween_head (s : State) (i : Slot) (k : Nat) (h : i.val < k) :
    s.liveBetween i.val k = (if (s.drop i).state.live then [i] else []) ++ s.liveBetween (i.val + 1) k := by
  have hl : (List.finRange 64).length = 64 := List.length_finRange
  have hg : ∀ j (hj : j < (List.finRange 64).length), ((List.finRange 64)[j]'hj).val = j :=
    fun j hj => by rw [List.getElem_finRange]; rfl
  have hsplit : List.finRange 64 = (List.finRange 64).take i.val ++ i :: (List.finRange 64).drop (i.val + 1) := by
    conv_lhs => rw [← List.take_append_drop i.val (List.finRange 64),
      List.drop_eq_getElem_cons (by rw [hl]; exact i.isLt)]
    congr 2
    exact Fin.ext (hg _ _)
  have hlow : ∀ x ∈ (List.finRange 64).take i.val, x.val < i.val := by
    intro x hx
    obtain ⟨j, hj, rfl⟩ := List.mem_take_iff_getElem.mp hx
    rw [hg]; omega
  have hhigh : ∀ x ∈ (List.finRange 64).drop (i.val + 1), i.val < x.val := by
    intro x hx
    obtain ⟨j, hj, rfl⟩ := List.mem_drop_iff_getElem.mp hx
    rw [hg]; omega
  simp only [State.liveBetween]
  rw [hsplit]
  simp only [List.filter_append, List.filter_cons]
  have e1 : ∀ a, i.val ≤ a → ((List.finRange 64).take i.val).filter
      (fun x => decide (a ≤ x.val ∧ x.val < k) && (s.drop x).state.live) = [] := by
    intro a ha
    rw [List.filter_eq_nil_iff]
    intro x hx
    have := hlow x hx
    intro hp
    simp only [Bool.and_eq_true, decide_eq_true_eq] at hp
    omega
  rw [e1 _ (le_refl _), e1 _ (Nat.le_succ _)]
  have e2 : ((List.finRange 64).drop (i.val + 1)).filter
      (fun x => decide (i.val ≤ x.val ∧ x.val < k) && (s.drop x).state.live) =
      ((List.finRange 64).drop (i.val + 1)).filter
      (fun x => decide (i.val + 1 ≤ x.val ∧ x.val < k) && (s.drop x).state.live) := by
    refine List.filter_congr (fun x hx => ?_)
    have := hhigh x hx
    exact congrArg (· && _) (decide_eq_decide.mpr (by omega))
  rw [e2]
  cases hv : (s.drop i).state.live <;> simp [h]

theorem liveBetween_congr {s t : State} {a k : Nat} (h : ∀ i : Slot, a ≤ i.val → i.val < k → t.drop i = s.drop i) :
    t.liveBetween a k = s.liveBetween a k := by
  refine List.filter_congr (fun i _ => ?_)
  by_cases hi : a ≤ i.val ∧ i.val < k
  · rw [h i hi.1 hi.2]
  · simp [hi]

/-- A retire operation that comes to a drop in flight, past slots that are VACANT or hold an idle drop: these have
completed, and it waits there. -/
theorem RetireGoesOn.waits_at {op : RetireOp} {u t : State} (h : RetireGoesOn op u t) : ∀ k : Slot, op.next ≤ k.val →
    k.val - op.next < op.count - op.completed → (u.drop k).state.live = true → (u.drop k).link.inFlight = true →
    (∀ i : Slot, op.next ≤ i.val → i < k →
      (u.drop i).state = .vacant ∨ (u.drop i).state.live = true ∧ (u.drop i).link.inFlight = false) →
    let retired := u.liveBetween op.next k.val
    let begun := retired ++ [k]
    t.retire = some { op with next := k.val, completed := op.completed + (k.val - op.next) } ∧
      t.drop k = { u.drop k with
        state := .retiring, pendingMove := none, outbox := [], headLock := false, settleWait := false, inbox := []
        partialMsg := none } ∧
      (∀ i ∈ retired, t.drop i = .vacant (u.drop i).generation) ∧
      (∀ i ∉ begun, t.drop i = u.drop i ∧ t.au.slot i = u.au.slot i) ∧ (∀ i ∈ begun, t.au.slot i = .clear) ∧
      (∀ l, t.au.line l = u.au.line l) ∧
      (∀ l, t.lc l = (begun.filter (fun i => decide ((u.drop i).currentLine = l))).foldl
        (fun c i => ((c.ringRemove i).probeRemove i).urgentRemove i) (u.lc l)) ∧
      t.store.freeCells = u.store.freeCells ++ begun.flatMap (fun i => (u.drop i).inboundCells ++ (u.drop i).outboxCells) ∧
      t.store.freeRecords = u.store.freeRecords ++ begun.flatMap (fun i => (u.drop i).inboundRecs ++ (u.drop i).outboxRecs) ∧
      t.store.bcasts = u.store.bcasts ∧
      t.hli.records = u.hli.records ++ (begun.filterMap (fun i => (u.drop i).pendingMove)).map
        (fun p => replyOf p.tag 0x94#8 [0x40#8]) := by
  induction h with
  | ends op u hd => intro k h1 h2; omega
  | stands op u hd hst =>
    intro k h1 h2 hl hi hpre
    exfalso
    by_cases e : op.next = k.val
    · have := hst k e
      simp [this, DropState.live] at hl
    · have hlt : op.next < 64 := by omega
      have := hst ⟨op.next, hlt⟩ rfl
      rcases hpre ⟨op.next, hlt⟩ (le_refl _) (Fin.lt_def.mpr (by simp; omega)) with h | ⟨h, _⟩ <;>
        simp [this, DropState.live] at h
  | vacant op u t i hd hn hv _ ih =>
    intro k h1 h2 hl hi hpre
    have hne : op.next ≠ k.val := by
      intro e
      have : i = k := Fin.ext (hn.symm.trans e)
      subst this
      simp [hv, DropState.live] at hl
    have := ih k (by simp [RetireOp.passed]; omega) (by simp [RetireOp.passed]; omega) hl hi
      (fun j hj hk => hpre j (by simp [RetireOp.passed] at hj; omega) hk)
    have e : u.liveBetween op.next k.val = u.liveBetween op.passed.next k.val := by
      rw [hn, liveBetween_head u i k.val (by omega)]
      simp [hv, DropState.live, RetireOp.passed, hn]
    have e2 : op.completed + (k.val - op.next) = op.passed.completed + (k.val - op.passed.next) := by
      simp [RetireOp.passed]; omega
    rw [e, e2]
    exact this
  | waits op u w i hd hn hl' hi' hb =>
    intro k h1 h2 hl hi hpre
    have e : i = k := by
      by_contra hne
      have hlt : i < k := Fin.lt_def.mpr (by
        have : i.val ≠ k.val := fun x => hne (Fin.ext x)
        omega)
      rcases hpre i (by omega) hlt with h | ⟨_, h⟩
      · simp [h, DropState.live] at hl'
      · simp [h] at hi'
    subst e
    have e : u.liveBetween op.next i.val = [] := by
      rw [hn, State.liveBetween, List.filter_eq_nil_iff]
      intro x _ hp
      simp only [Bool.and_eq_true, decide_eq_true_eq] at hp
      omega
    obtain ⟨b1, b2, b3, b4, b5, b6, b7, b8⟩ := hb
    rw [e]
    refine ⟨?_, b1, by simp, ?_, ?_, b7.2, ?_, ?_, ?_, ?_, ?_⟩
    · simp [hn]
      cases op; simp_all
    · intro j hj
      have : j ≠ i := by simpa using hj
      exact ⟨b2 j this, b7.1 j this⟩
    · simpa using b6
    · intro l
      rw [setRetire_lc, b4]
      by_cases h : l = (u.drop i).currentLine
      · simp [h]
      · simp [h, Ne.symm h]
    · simp [b5]
    · simp [b5]
    · simp [b5]
    · simp only [setRetire_hli, b8]
      cases hp : (u.drop i).pendingMove <;> simp [hp, Hli.records, Hli.posted]
  | idle op u w t i hd hn hl' hi' hb _ ih =>
    intro k h1 h2 hl hi hpre
    have hki : k ≠ i := by
      rintro rfl
      simp [hi] at hi'
    have hik : i.val < k.val := by
      have : k.val ≠ i.val := fun x => hki (Fin.ext x)
      omega
    obtain ⟨b1, b2, b3, b4, b5, b6, b7, b8⟩ := hb
    have hd' : ∀ j, j ≠ i → (w.setDrop i (.vacant (u.drop i).generation)).drop j = u.drop j :=
      fun j hj => by rw [setDrop_drop_ne (Ne.symm hj), b2 j hj]
    have hnp : op.passed.next = i.val + 1 := by simp [RetireOp.passed, hn]
    have hgt : ∀ j : Slot, op.passed.next ≤ j.val → j ≠ i := by
      rintro j hj rfl
      omega
    have := ih k (by omega) (by simp [RetireOp.passed]; omega) (by rw [hd' k hki]; exact hl) (by rw [hd' k hki]; exact hi)
      (fun j hj hk => by rw [hd' j (hgt j hj)]; exact hpre j (by omega) hk)
    have e : u.liveBetween op.next k.val = i :: u.liveBetween op.passed.next k.val := by
      rw [hn, hnp, liveBetween_head u i k.val hik]
      simp [hl']
    have e2 : op.completed + (k.val - op.next) = op.passed.completed + (k.val - op.passed.next) := by
      simp [RetireOp.passed]; omega
    have e3 : (w.setDrop i (.vacant (u.drop i).generation)).liveBetween op.passed.next k.val =
        u.liveBetween op.passed.next k.val := liveBetween_congr (fun j hj _ => hd' j (hgt j hj))
    rw [e3] at this
    have hmem : ∀ j ∈ u.liveBetween op.passed.next k.val ++ [k], j ≠ i := by
      intro j hj
      rcases List.mem_append.mp hj with hj | hj
      · exact hgt j (mem_liveBetween.mp hj).1.1
      · simp at hj; subst hj; exact hki
    obtain ⟨t1, t2, t3, t4, t5, t6, t7, t8, t9, t10, t11⟩ := this
    have hfm : ∀ f : Drop → List Nat, (u.liveBetween op.passed.next k.val ++ [k]).flatMap
        (fun j => f ((w.setDrop i (.vacant (u.drop i).generation)).drop j)) =
        (u.liveBetween op.passed.next k.val ++ [k]).flatMap (fun j => f (u.drop j)) := by
      intro f
      rw [List.flatMap_def, List.flatMap_def]
      exact congrArg _ (List.map_congr_left (fun j hj => by rw [hd' j (hmem j hj)]))
    rw [e, e2]
    simp only [List.cons_append]
    have hni : i ∉ u.liveBetween op.passed.next k.val ++ [k] := fun h => hmem i h rfl
    refine ⟨t1, by rw [t2, hd' k hki], ?_, ?_, ?_, fun l => (t6 l).trans (b7.2 l), ?_, ?_, ?_, ?_, ?_⟩
    · intro j hj
      rcases List.mem_cons.mp hj with rfl | hj
      · have := (t4 j hni).1
        rw [this]; simp
      · rw [t3 j hj, hd' j (hgt j (mem_liveBetween.mp hj).1.1)]
    · intro j hj
      obtain ⟨hji, hj⟩ : j ≠ i ∧ j ∉ u.liveBetween op.passed.next k.val ++ [k] := by
        simpa [not_or] using hj
      obtain ⟨a, b⟩ := t4 j hj
      exact ⟨a.trans (hd' j hji), b.trans (b7.1 j hji)⟩
    · intro j hj
      rcases List.mem_cons.mp hj with rfl | hj
      · exact (t4 j hni).2.trans b6
      · exact t5 j hj
    · intro l
      rw [t7 l]
      have ef : (u.liveBetween op.passed.next k.val ++ [k]).filter
            (fun j => decide (((w.setDrop i (.vacant (u.drop i).generation)).drop j).currentLine = l)) =
          (u.liveBetween op.passed.next k.val ++ [k]).filter (fun j => decide ((u.drop j).currentLine = l)) :=
        List.filter_congr (fun j hj => by rw [hd' j (hmem j hj)])
      rw [ef, setDrop_lc, b4 l, List.filter_cons]
      by_cases h : l = (u.drop i).currentLine
      · simp [h]
      · simp [h, Ne.symm h]
    · rw [t8, hfm (fun d => d.inboundCells ++ d.outboxCells)]
      simp [b5]
    · rw [t9, hfm (fun d => d.inboundRecs ++ d.outboxRecs)]
      simp [b5]
    · rw [t10]; simp [b5]
    · have ef : (u.liveBetween op.passed.next k.val ++ [k]).filterMap
            (fun j => ((w.setDrop i (.vacant (u.drop i).generation)).drop j).pendingMove) =
          (u.liveBetween op.passed.next k.val ++ [k]).filterMap (fun j => (u.drop j).pendingMove) :=
        List.filterMap_congr (fun j hj => by rw [hd' j (hmem j hj)])
      rw [t11, ef, setDrop_hli, b8, List.filterMap_cons]
      cases hp : (u.drop i).pendingMove <;> simp [Hli.records, Hli.posted]

end Sys2Proof.Machine
end

