-- ==== Sys2Proof/Laws/Rounds.lean ====
section
/-!
SUPPORT. What the events of a poll round leave as they were: one lemma per field.
-/

namespace Sys2Proof.Machine

@[simp] theorem startRound_pending (l : Line) (s : State) : (startRound l s).pending = s.pending := by
  simp [startRound]
@[simp] theorem startRound_timebase (l : Line) (s : State) : (startRound l s).timebase = s.timebase + 1 := by
  simp [startRound]
@[simp] theorem startRound_hli (l : Line) (s : State) : (startRound l s).hli = s.hli := by
  simp [startRound]
@[simp] theorem startRound_drops (l : Line) (s : State) : (startRound l s).drops = s.drops := by
  simp [startRound]
@[simp] theorem startRound_retire (l : Line) (s : State) : (startRound l s).retire = s.retire := by
  simp [startRound]
@[simp] theorem startRound_store (l : Line) (s : State) : (startRound l s).store = s.store := by
  simp [startRound]
@[simp] theorem startRound_au (l : Line) (s : State) : (startRound l s).au = s.au := by
  simp [startRound]
@[simp] theorem startRound_drop (l : Line) (s : State) (j : Slot) : (startRound l s).drop j = s.drop j := by
  simp [State.drop]

@[simp] theorem startVisit_pending (l : Line) (c : Choice) (s : State) : (startVisit l c s).pending = s.pending := by
  simp [startVisit]
@[simp] theorem startVisit_timebase (l : Line) (c : Choice) (s : State) : (startVisit l c s).timebase = s.timebase := by
  simp [startVisit]
@[simp] theorem startVisit_hli (l : Line) (c : Choice) (s : State) : (startVisit l c s).hli = s.hli := by
  simp [startVisit]
@[simp] theorem startVisit_retire (l : Line) (c : Choice) (s : State) : (startVisit l c s).retire = s.retire := by
  simp [startVisit]
@[simp] theorem startVisit_store (l : Line) (c : Choice) (s : State) : (startVisit l c s).store = s.store := by
  simp [startVisit]
@[simp] theorem startVisit_au (l : Line) (c : Choice) (s : State) : (startVisit l c s).au = s.au := by
  simp [startVisit]

@[simp] theorem visitStart_pending (l : Line) (s : State) : (visitStart l s).pending = s.pending := by
  simp only [visitStart]; (repeat' split) <;> simp
@[simp] theorem visitStart_timebase (l : Line) (s : State) : (visitStart l s).timebase = s.timebase := by
  simp only [visitStart]; (repeat' split) <;> simp
@[simp] theorem visitStart_hli (l : Line) (s : State) : (visitStart l s).hli = s.hli := by
  simp only [visitStart]; (repeat' split) <;> simp
@[simp] theorem visitStart_retire (l : Line) (s : State) : (visitStart l s).retire = s.retire := by
  simp only [visitStart]; (repeat' split) <;> simp
@[simp] theorem visitStart_store (l : Line) (s : State) : (visitStart l s).store = s.store := by
  simp only [visitStart]; (repeat' split) <;> simp
@[simp] theorem visitStart_au (l : Line) (s : State) : (visitStart l s).au = s.au := by
  simp only [visitStart]; (repeat' split) <;> simp

@[simp] theorem enterProbe_pending (l : Line) (s : State) : (enterProbe l s).pending = s.pending := by
  simp [enterProbe]
@[simp] theorem enterProbe_timebase (l : Line) (s : State) : (enterProbe l s).timebase = s.timebase := by
  simp [enterProbe]
@[simp] theorem enterProbe_hli (l : Line) (s : State) : (enterProbe l s).hli = s.hli := by
  simp [enterProbe]
@[simp] theorem enterProbe_drops (l : Line) (s : State) : (enterProbe l s).drops = s.drops := by
  simp [enterProbe]
@[simp] theorem enterProbe_retire (l : Line) (s : State) : (enterProbe l s).retire = s.retire := by
  simp [enterProbe]
@[simp] theorem enterProbe_store (l : Line) (s : State) : (enterProbe l s).store = s.store := by
  simp [enterProbe]
@[simp] theorem enterProbe_au (l : Line) (s : State) : (enterProbe l s).au = s.au := by
  simp [enterProbe]
@[simp] theorem enterProbe_drop (l : Line) (s : State) (j : Slot) : (enterProbe l s).drop j = s.drop j := by
  simp [State.drop]

@[simp] theorem openWindow_pending (l : Line) (s : State) : (openWindow l s).pending = s.pending := by
  simp only [openWindow]; (repeat' split) <;> simp
@[simp] theorem openWindow_timebase (l : Line) (s : State) : (openWindow l s).timebase = s.timebase := by
  simp only [openWindow]; (repeat' split) <;> simp
@[simp] theorem openWindow_hli (l : Line) (s : State) : (openWindow l s).hli = s.hli := by
  simp only [openWindow]; (repeat' split) <;> simp
@[simp] theorem openWindow_drops (l : Line) (s : State) : (openWindow l s).drops = s.drops := by
  simp only [openWindow]; (repeat' split) <;> simp
@[simp] theorem openWindow_retire (l : Line) (s : State) : (openWindow l s).retire = s.retire := by
  simp only [openWindow]; (repeat' split) <;> simp
@[simp] theorem openWindow_drop (l : Line) (s : State) (j : Slot) : (openWindow l s).drop j = s.drop j := by
  simp [State.drop]

@[simp] theorem broadcastWindow_pending (l : Line) (s : State) : (broadcastWindow l s).pending = s.pending := by
  simp only [broadcastWindow]; (repeat' split) <;> simp
@[simp] theorem broadcastWindow_timebase (l : Line) (s : State) : (broadcastWindow l s).timebase = s.timebase := by
  simp only [broadcastWindow]; (repeat' split) <;> simp
@[simp] theorem broadcastWindow_hli (l : Line) (s : State) : (broadcastWindow l s).hli = s.hli := by
  simp only [broadcastWindow]; (repeat' split) <;> simp
@[simp] theorem broadcastWindow_drops (l : Line) (s : State) : (broadcastWindow l s).drops = s.drops := by
  simp only [broadcastWindow]; (repeat' split) <;> simp
@[simp] theorem broadcastWindow_retire (l : Line) (s : State) : (broadcastWindow l s).retire = s.retire := by
  simp only [broadcastWindow]; (repeat' split) <;> simp
@[simp] theorem broadcastWindow_drop (l : Line) (s : State) (j : Slot) : (broadcastWindow l s).drop j = s.drop j := by
  simp [State.drop]

@[simp] theorem bcastFrameEnd_pending (l : Line) (s : State) : (bcastFrameEnd l s).pending = s.pending := by
  simp only [bcastFrameEnd]; (repeat' split) <;> simp
@[simp] theorem bcastFrameEnd_timebase (l : Line) (s : State) : (bcastFrameEnd l s).timebase = s.timebase := by
  simp only [bcastFrameEnd]; (repeat' split) <;> simp
@[simp] theorem bcastFrameEnd_hli (l : Line) (s : State) : (bcastFrameEnd l s).hli = s.hli := by
  simp only [bcastFrameEnd]; (repeat' split) <;> simp
@[simp] theorem bcastFrameEnd_drops (l : Line) (s : State) : (bcastFrameEnd l s).drops = s.drops := by
  simp only [bcastFrameEnd]; (repeat' split) <;> simp
@[simp] theorem bcastFrameEnd_retire (l : Line) (s : State) : (bcastFrameEnd l s).retire = s.retire := by
  simp only [bcastFrameEnd]; (repeat' split) <;> simp
@[simp] theorem bcastFrameEnd_store (l : Line) (s : State) : (bcastFrameEnd l s).store = s.store := by
  simp only [bcastFrameEnd]; (repeat' split) <;> simp
@[simp] theorem bcastFrameEnd_au (l : Line) (s : State) : (bcastFrameEnd l s).au = s.au := by
  simp only [bcastFrameEnd]; (repeat' split) <;> simp
@[simp] theorem bcastFrameEnd_drop (l : Line) (s : State) (j : Slot) : (bcastFrameEnd l s).drop j = s.drop j := by
  simp [State.drop]

@[simp] theorem passPeriod_pending (l : Line) (s : State) : (passPeriod l s).pending = s.pending := by
  simp [passPeriod]
@[simp] theorem passPeriod_timebase (l : Line) (s : State) : (passPeriod l s).timebase = s.timebase := by
  simp [passPeriod]
@[simp] theorem passPeriod_hli (l : Line) (s : State) : (passPeriod l s).hli = s.hli := by
  simp [passPeriod]
@[simp] theorem passPeriod_drops (l : Line) (s : State) : (passPeriod l s).drops = s.drops := by
  simp [passPeriod]
@[simp] theorem passPeriod_retire (l : Line) (s : State) : (passPeriod l s).retire = s.retire := by
  simp [passPeriod]
@[simp] theorem passPeriod_store (l : Line) (s : State) : (passPeriod l s).store = s.store := by
  simp [passPeriod]
@[simp] theorem passPeriod_au (l : Line) (s : State) : (passPeriod l s).au = s.au := by
  simp [passPeriod]
@[simp] theorem passPeriod_drop (l : Line) (s : State) (j : Slot) : (passPeriod l s).drop j = s.drop j := by
  simp [State.drop]

/-- The end of a round on a line changes of the two lines the elapsed time of the other one's round alone, and that only
when this began before the round that ends. -/
theorem passPeriod_lc (l : Line) (s : State) :
    (passPeriod l s).lc l = s.lc l ∧ (passPeriod l s).lc l.other =
      if (s.lc l.other).roundStart < (s.lc l).roundStart then
        { s.lc l.other with roundElapsed := (s.lc l.other).roundElapsed + (s.lc l).cfg.roundPeriod.toNat }
      else s.lc l.other := by
  cases l <;> exact ⟨rfl, rfl⟩

@[simp] theorem roundPeriodElapsed_pending (l : Line) (s : State) : (roundPeriodElapsed l s).pending = s.pending := by
  simp only [roundPeriodElapsed]; (repeat' split) <;> simp
@[simp] theorem roundPeriodElapsed_hli (l : Line) (s : State) : (roundPeriodElapsed l s).hli = s.hli := by
  simp only [roundPeriodElapsed]; (repeat' split) <;> simp
@[simp] theorem roundPeriodElapsed_drops (l : Line) (s : State) : (roundPeriodElapsed l s).drops = s.drops := by
  simp only [roundPeriodElapsed]; (repeat' split) <;> simp
@[simp] theorem roundPeriodElapsed_retire (l : Line) (s : State) : (roundPeriodElapsed l s).retire = s.retire := by
  simp only [roundPeriodElapsed]; (repeat' split) <;> simp
@[simp] theorem roundPeriodElapsed_store (l : Line) (s : State) : (roundPeriodElapsed l s).store = s.store := by
  simp only [roundPeriodElapsed]; (repeat' split) <;> simp
@[simp] theorem roundPeriodElapsed_au (l : Line) (s : State) : (roundPeriodElapsed l s).au = s.au := by
  simp only [roundPeriodElapsed]; (repeat' split) <;> simp
@[simp] theorem roundPeriodElapsed_drop (l : Line) (s : State) (j : Slot) : (roundPeriodElapsed l s).drop j = s.drop j := by
  simp [State.drop]

/-! ## The choice in the idle period (R112) -/

/-- The idle period serves no more once an urgent visit has been made in it and the round period has elapsed. -/
theorem idleServes_iff (c : LineCtl) :
    c.idleServes = true ↔ ¬ (c.idleServed = true ∧ c.cfg.roundPeriod.toNat ≤ c.roundElapsed) := by
  simp [LineCtl.idleServes, LineCtl.periodOver]
  cases c.idleServed <;> simp

/-- What a line chooses in the idle period. -/
theorem choose_idle (c : LineCtl) (h : c.phase = .idle) :
    c.choose = if c.idleServes then
      c.urgent.head?.map (fun i => { slot := i, origin := .urgent, deferred := .clear }) else none := by
  simp [LineCtl.choose, h]

/-! ## The probe window taken up (R107, R111, R113) -/

/-- The probe window opens in the model as in the statements. -/
theorem probeWindow_eq (c : LineCtl) : c.probeWindow = c.probeOpened := by
  have h : c.probeCountdown - 1#8 = 0#8 ↔ c.probeCountdown = 1#8 := by
    constructor <;> intro h
    · have := congrArg (· + 1#8) h
      simpa using this
    · simp [h]
  simp only [LineCtl.probeWindow, LineCtl.probeOpened, h, List.isEmpty_iff]

/-- A probe window is taken up in the model as in the statements. -/
theorem catchUp_eq (c : LineCtl) : c.catchUp = c.probeTakenUp := by
  simp only [LineCtl.catchUp, LineCtl.probeTakenUp, probeWindow_eq, List.isEmpty_iff]
  by_cases h : c.phase = .probe <;> cases c.probeStep <;> simp [h]

/-- A probe window taken up is over, or is to visit the head of the probe list. -/
theorem probeTakenUp_phase (c : LineCtl) :
    (c.phase ≠ .probe → c.probeTakenUp = c) ∧
      (c.phase = .probe → c.probeTakenUp.phase = .idle ∨ c.probeTakenUp.phase = .probe ∧ c.probeTakenUp.probeList ≠ []) := by
  refine ⟨fun h => by simp [LineCtl.probeTakenUp, h], fun h => ?_⟩
  simp only [LineCtl.probeTakenUp, LineCtl.probeOpened, h]
  (repeat' split) <;> simp_all

/-! ## The start of the next round (R108, R112) -/

/-- The round that begins on a line: its line, and nothing else but the count of moments. -/
theorem startRound_eq (l : Line) (s : State) :
    startRound l s = (s.setTimebase (s.timebase + 1)).setLc l { s.lc l with
      ring := (s.lc l).ring.map (fun e => { e with due := dueMark (s.drop e.slot).cls (s.lc l).roundNumber })
      cursor := 0, phase := .ringWalk, roundStart := s.timebase + 1, roundElapsed := 0, probeStep := false
      deferred := .clear, idleServed := false } := by
  cases l <;> rfl

/-! ## What a visit's start is -/

@[simp] theorem setLc_holdFor (s : State) (l : Line) (c : LineCtl) (d : Drop) : (s.setLc l c).holdFor d = s.holdFor d := by
  simp [State.holdFor]

/-- The frame of a visit does not depend on the lines. -/
@[simp] theorem setLc_buildFrame (s : State) (l : Line) (c : LineCtl) (i : Slot) :
    (s.setLc l c).buildFrame i = s.buildFrame i := by
  simp [State.buildFrame]

/-- The state right after a visit's start, in the words of the statements. -/
theorem startVisit_visitBegun (l : Line) (ch : Choice) (s : State) :
    startVisit l ch s = s.visitBegun l ch.slot ch.origin
      (if ch.origin = .ring then (s.lc l).cursor + 1 else (s.lc l).cursor) ch.deferred
      ((s.lc l).idleServed || (s.lc l).phase == .idle) := by
  cases l <;> rfl

end Sys2Proof.Machine
end

