-- ==== Sys2Proof/Laws/Visit.lean ====
section
/-!
SUPPORT. What the retire operation, supervision and the parts of a visit leave as they were: one lemma per field.
-/

namespace Sys2Proof.Machine

/-! ## The retire operation -/

theorem runRetire_frame (n : Nat) (s : State) :
    (runRetire n s).pending = s.pending ∧ (runRetire n s).timebase = s.timebase := by
  induction n generalizing s with
  | zero => exact ⟨rfl, rfl⟩
  | succ n ih => simp only [runRetire]; (repeat' split) <;> simp [ih]

@[simp] theorem runRetire_pending (n : Nat) (s : State) : (runRetire n s).pending = s.pending := (runRetire_frame n s).1
@[simp] theorem runRetire_timebase (n : Nat) (s : State) : (runRetire n s).timebase = s.timebase := (runRetire_frame n s).2

@[simp] theorem finishRetiringVisit_pending (i : Slot) (s : State) : (finishRetiringVisit i s).pending = s.pending := by
  simp only [finishRetiringVisit]; (repeat' split) <;> simp
@[simp] theorem finishRetiringVisit_timebase (i : Slot) (s : State) : (finishRetiringVisit i s).timebase = s.timebase := by
  simp only [finishRetiringVisit]; (repeat' split) <;> simp

/-! ## Supervision -/

@[simp] theorem answerStop_pending (l : Line) (c : ReplyCode) (s : State) : (answerStop l c s).pending = s.pending := by
  simp only [answerStop]; (repeat' split) <;> simp
@[simp] theorem answerStop_timebase (l : Line) (c : ReplyCode) (s : State) : (answerStop l c s).timebase = s.timebase := by
  simp only [answerStop]; (repeat' split) <;> simp
@[simp] theorem answerStop_drops (l : Line) (c : ReplyCode) (s : State) : (answerStop l c s).drops = s.drops := by
  simp only [answerStop]; (repeat' split) <;> simp
@[simp] theorem answerStop_retire (l : Line) (c : ReplyCode) (s : State) : (answerStop l c s).retire = s.retire := by
  simp only [answerStop]; (repeat' split) <;> simp
@[simp] theorem answerStop_store (l : Line) (c : ReplyCode) (s : State) : (answerStop l c s).store = s.store := by
  simp only [answerStop]; (repeat' split) <;> simp
@[simp] theorem answerStop_au (l : Line) (c : ReplyCode) (s : State) : (answerStop l c s).au = s.au := by
  simp only [answerStop]; (repeat' split) <;> simp

@[simp] theorem loseDrop_pending (i : Slot) (s : State) : (loseDrop i s).pending = s.pending := by
  simp [loseDrop]
@[simp] theorem loseDrop_timebase (i : Slot) (s : State) : (loseDrop i s).timebase = s.timebase := by
  simp [loseDrop]
@[simp] theorem loseDrop_hli (i : Slot) (s : State) : (loseDrop i s).hli = s.hli := by
  simp [loseDrop]
@[simp] theorem loseDrop_retire (i : Slot) (s : State) : (loseDrop i s).retire = s.retire := by
  simp [loseDrop]
@[simp] theorem loseDrop_store (i : Slot) (s : State) : (loseDrop i s).store = s.store := by
  simp [loseDrop]

theorem failoverSlot_frame (l : Line) (p : Tally × State) (i : Slot) :
    (failoverSlot l p i).2.pending = p.2.pending ∧ (failoverSlot l p i).2.timebase = p.2.timebase ∧
      (failoverSlot l p i).2.retire = p.2.retire ∧ (failoverSlot l p i).2.hli = p.2.hli ∧
      (failoverSlot l p i).2.store = p.2.store := by
  obtain ⟨n, s⟩ := p
  simp only [failoverSlot]; (repeat' split) <;> simp

theorem failover_fold (l : Line) (is : List Slot) (p : Tally × State) :
    (is.foldl (failoverSlot l) p).2.pending = p.2.pending ∧ (is.foldl (failoverSlot l) p).2.timebase = p.2.timebase ∧
      (is.foldl (failoverSlot l) p).2.retire = p.2.retire ∧ (is.foldl (failoverSlot l) p).2.hli = p.2.hli ∧
      (is.foldl (failoverSlot l) p).2.store = p.2.store := by
  induction is generalizing p with
  | nil => exact ⟨rfl, rfl, rfl, rfl, rfl⟩
  | cons i is ih =>
    obtain ⟨h1, h2, h3, h4, h5⟩ := ih (failoverSlot l p i)
    obtain ⟨g1, g2, g3, g4, g5⟩ := failoverSlot_frame l p i
    exact ⟨h1.trans g1, h2.trans g2, h3.trans g3, h4.trans g4, h5.trans g5⟩

@[simp] theorem failover_pending (l : Line) (s : State) : (failover l s).2.pending = s.pending := by
  unfold failover; generalize allSlots = is; exact (failover_fold l is _).1
@[simp] theorem failover_timebase (l : Line) (s : State) : (failover l s).2.timebase = s.timebase := by
  unfold failover; generalize allSlots = is; exact (failover_fold l is _).2.1
@[simp] theorem failover_retire (l : Line) (s : State) : (failover l s).2.retire = s.retire := by
  unfold failover; generalize allSlots = is; exact (failover_fold l is _).2.2.1
@[simp] theorem failover_hli (l : Line) (s : State) : (failover l s).2.hli = s.hli := by
  unfold failover; generalize allSlots = is; exact (failover_fold l is _).2.2.2.1
@[simp] theorem failover_store (l : Line) (s : State) : (failover l s).2.store = s.store := by
  unfold failover; generalize allSlots = is; exact (failover_fold l is _).2.2.2.2

@[simp] theorem faultEntry_pending (l : Line) (s : State) : (faultEntry l s).pending = s.pending := by
  simp [faultEntry]
@[simp] theorem faultEntry_timebase (l : Line) (s : State) : (faultEntry l s).timebase = s.timebase := by
  simp [faultEntry]
@[simp] theorem faultEntry_retire (l : Line) (s : State) : (faultEntry l s).retire = s.retire := by
  simp [faultEntry]
@[simp] theorem faultCheck_pending (l : Line) (d : DropState) (x y : Bool) (s : State) : (faultCheck l d x y s).pending = s.pending := by
  simp only [faultCheck]; (repeat' split) <;> simp
@[simp] theorem faultCheck_timebase (l : Line) (d : DropState) (x y : Bool) (s : State) : (faultCheck l d x y s).timebase = s.timebase := by
  simp only [faultCheck]; (repeat' split) <;> simp
@[simp] theorem faultCheck_retire (l : Line) (d : DropState) (x y : Bool) (s : State) : (faultCheck l d x y s).retire = s.retire := by
  simp only [faultCheck]; (repeat' split) <;> simp

@[simp] theorem cutLine_pending (l : Line) (s : State) : (cutLine l s).pending = s.pending := by
  simp only [cutLine]; (repeat' split) <;> simp
@[simp] theorem cutLine_timebase (l : Line) (s : State) : (cutLine l s).timebase = s.timebase := by
  simp only [cutLine]; (repeat' split) <;> simp
@[simp] theorem cutLine_hli (l : Line) (s : State) : (cutLine l s).hli = s.hli := by
  simp only [cutLine]; (repeat' split) <;> simp
@[simp] theorem cutLine_retire (l : Line) (s : State) : (cutLine l s).retire = s.retire := by
  simp only [cutLine]; (repeat' split) <;> simp
@[simp] theorem cutLine_store (l : Line) (s : State) : (cutLine l s).store = s.store := by
  simp only [cutLine]; (repeat' split) <;> simp
@[simp] theorem cutLine_au (l : Line) (s : State) : (cutLine l s).au = s.au := by
  simp only [cutLine]; (repeat' split) <;> simp

@[simp] theorem resetDrop_pending (l : Line) (s : State) (i : Slot) : (resetDrop l s i).pending = s.pending := by
  simp only [resetDrop]; (repeat' split) <;> simp
@[simp] theorem resetDrop_timebase (l : Line) (s : State) (i : Slot) : (resetDrop l s i).timebase = s.timebase := by
  simp only [resetDrop]; (repeat' split) <;> simp
@[simp] theorem resetDrop_hli (l : Line) (s : State) (i : Slot) : (resetDrop l s i).hli = s.hli := by
  simp only [resetDrop]; (repeat' split) <;> simp
@[simp] theorem resetDrop_retire (l : Line) (s : State) (i : Slot) : (resetDrop l s i).retire = s.retire := by
  simp only [resetDrop]; (repeat' split) <;> simp
@[simp] theorem resetDrop_store (l : Line) (s : State) (i : Slot) : (resetDrop l s i).store = s.store := by
  simp only [resetDrop]; (repeat' split) <;> simp
@[simp] theorem resetDrop_lcA (l : Line) (s : State) (i : Slot) : (resetDrop l s i).lcA = s.lcA := by
  simp only [resetDrop]; (repeat' split) <;> simp
@[simp] theorem resetDrop_lcB (l : Line) (s : State) (i : Slot) : (resetDrop l s i).lcB = s.lcB := by
  simp only [resetDrop]; (repeat' split) <;> simp

theorem resetDrops_frame (l : Line) (is : List Slot) (s : State) :
    (is.foldl (resetDrop l) s).pending = s.pending ∧ (is.foldl (resetDrop l) s).timebase = s.timebase ∧
      (is.foldl (resetDrop l) s).hli = s.hli ∧ (is.foldl (resetDrop l) s).retire = s.retire ∧
      (is.foldl (resetDrop l) s).store = s.store ∧ (is.foldl (resetDrop l) s).lcA = s.lcA ∧
      (is.foldl (resetDrop l) s).lcB = s.lcB := by
  induction is generalizing s with
  | nil => exact ⟨rfl, rfl, rfl, rfl, rfl, rfl, rfl⟩
  | cons i is ih =>
    obtain ⟨h1, h2, h3, h4, h5, h6, h7⟩ := ih (resetDrop l s i)
    exact ⟨h1.trans (by simp), h2.trans (by simp), h3.trans (by simp), h4.trans (by simp), h5.trans (by simp),
      h6.trans (by simp), h7.trans (by simp)⟩

@[simp] theorem settleCut_pending (v : Option Visit) (s : State) : (settleCut v s).pending = s.pending := by
  simp only [settleCut]; (repeat' split) <;> simp
@[simp] theorem settleCut_timebase (v : Option Visit) (s : State) : (settleCut v s).timebase = s.timebase := by
  simp only [settleCut]; (repeat' split) <;> simp

@[simp] theorem disableLine_pending (l : Line) (s : State) : (disableLine l s).pending = s.pending := by
  simp [disableLine]
@[simp] theorem disableLine_timebase (l : Line) (s : State) : (disableLine l s).timebase = s.timebase := by
  simp [disableLine]
@[simp] theorem disableLine_hli (l : Line) (s : State) : (disableLine l s).hli = s.hli := by
  simp [disableLine]
@[simp] theorem disableLine_drops (l : Line) (s : State) : (disableLine l s).drops = s.drops := by
  simp [disableLine]
@[simp] theorem disableLine_retire (l : Line) (s : State) : (disableLine l s).retire = s.retire := by
  simp [disableLine]
@[simp] theorem disableLine_store (l : Line) (s : State) : (disableLine l s).store = s.store := by
  simp [disableLine]

@[simp] theorem lineResetAct_pending (l : Line) (s : State) : (lineResetAct l s).pending = s.pending := by
  simp [lineResetAct, (resetDrops_frame _ _ _).1]
@[simp] theorem lineResetAct_timebase (l : Line) (s : State) : (lineResetAct l s).timebase = s.timebase := by
  simp [lineResetAct, (resetDrops_frame _ _ _).2.1]

/-! ## The visit -/

@[simp] theorem reportAcceptance_pending (i : Slot) (n : Option Delivered) (s : State) : (reportAcceptance i n s).pending = s.pending := by
  simp only [reportAcceptance]; (repeat' split) <;> simp
@[simp] theorem reportAcceptance_timebase (i : Slot) (n : Option Delivered) (s : State) : (reportAcceptance i n s).timebase = s.timebase := by
  simp only [reportAcceptance]; (repeat' split) <;> simp
@[simp] theorem reportAcceptance_hli (i : Slot) (n : Option Delivered) (s : State) : (reportAcceptance i n s).hli = s.hli := by
  simp only [reportAcceptance]; (repeat' split) <;> simp
@[simp] theorem reportAcceptance_retire (i : Slot) (n : Option Delivered) (s : State) : (reportAcceptance i n s).retire = s.retire := by
  simp only [reportAcceptance]; (repeat' split) <;> simp
@[simp] theorem reportAcceptance_lcA (i : Slot) (n : Option Delivered) (s : State) : (reportAcceptance i n s).lcA = s.lcA := by
  simp only [reportAcceptance]; (repeat' split) <;> simp
@[simp] theorem reportAcceptance_lcB (i : Slot) (n : Option Delivered) (s : State) : (reportAcceptance i n s).lcB = s.lcB := by
  simp only [reportAcceptance]; (repeat' split) <;> simp

@[simp] theorem takeNext_pending (i : Slot) (n : Option Delivered) (x : Bool) (s : State) : (takeNext i n x s).pending = s.pending := by
  simp only [takeNext]; (repeat' split) <;> simp
@[simp] theorem takeNext_timebase (i : Slot) (n : Option Delivered) (x : Bool) (s : State) : (takeNext i n x s).timebase = s.timebase := by
  simp only [takeNext]; (repeat' split) <;> simp
@[simp] theorem takeNext_hli (i : Slot) (n : Option Delivered) (x : Bool) (s : State) : (takeNext i n x s).hli = s.hli := by
  simp only [takeNext]; (repeat' split) <;> simp
@[simp] theorem takeNext_retire (i : Slot) (n : Option Delivered) (x : Bool) (s : State) : (takeNext i n x s).retire = s.retire := by
  simp only [takeNext]; (repeat' split) <;> simp
@[simp] theorem takeNext_lcA (i : Slot) (n : Option Delivered) (x : Bool) (s : State) : (takeNext i n x s).lcA = s.lcA := by
  simp only [takeNext]; (repeat' split) <;> simp
@[simp] theorem takeNext_lcB (i : Slot) (n : Option Delivered) (x : Bool) (s : State) : (takeNext i n x s).lcB = s.lcB := by
  simp only [takeNext]; (repeat' split) <;> simp

@[simp] theorem clearSettle_pending (i : Slot) (s : State) : (clearSettle i s).pending = s.pending := by
  simp [clearSettle]
@[simp] theorem clearSettle_timebase (i : Slot) (s : State) : (clearSettle i s).timebase = s.timebase := by
  simp [clearSettle]
@[simp] theorem clearSettle_hli (i : Slot) (s : State) : (clearSettle i s).hli = s.hli := by
  simp [clearSettle]
@[simp] theorem clearSettle_retire (i : Slot) (s : State) : (clearSettle i s).retire = s.retire := by
  simp [clearSettle]
@[simp] theorem clearSettle_store (i : Slot) (s : State) : (clearSettle i s).store = s.store := by
  simp [clearSettle]
@[simp] theorem clearSettle_lcA (i : Slot) (s : State) : (clearSettle i s).lcA = s.lcA := by
  simp [clearSettle]
@[simp] theorem clearSettle_lcB (i : Slot) (s : State) : (clearSettle i s).lcB = s.lcB := by
  simp [clearSettle]
@[simp] theorem clearSettle_au (i : Slot) (s : State) : (clearSettle i s).au = s.au := by
  simp [clearSettle]

@[simp] theorem takeData_pending (i : Slot) (f : DropFrame) (s : State) : (takeData i f s).pending = s.pending := by
  simp only [takeData]; (repeat' split) <;> simp
@[simp] theorem takeData_timebase (i : Slot) (f : DropFrame) (s : State) : (takeData i f s).timebase = s.timebase := by
  simp only [takeData]; (repeat' split) <;> simp
@[simp] theorem takeData_hli (i : Slot) (f : DropFrame) (s : State) : (takeData i f s).hli = s.hli := by
  simp only [takeData]; (repeat' split) <;> simp
@[simp] theorem takeData_retire (i : Slot) (f : DropFrame) (s : State) : (takeData i f s).retire = s.retire := by
  simp only [takeData]; (repeat' split) <;> simp
@[simp] theorem takeData_lcA (i : Slot) (f : DropFrame) (s : State) : (takeData i f s).lcA = s.lcA := by
  simp only [takeData]; (repeat' split) <;> simp
@[simp] theorem takeData_lcB (i : Slot) (f : DropFrame) (s : State) : (takeData i f s).lcB = s.lcB := by
  simp only [takeData]; (repeat' split) <;> simp

@[simp] theorem takeMore_pending (l : Line) (i : Slot) (m : Bool) (s : State) : (takeMore l i m s).pending = s.pending := by
  simp only [takeMore]; (repeat' split) <;> simp
@[simp] theorem takeMore_timebase (l : Line) (i : Slot) (m : Bool) (s : State) : (takeMore l i m s).timebase = s.timebase := by
  simp only [takeMore]; (repeat' split) <;> simp
@[simp] theorem takeMore_hli (l : Line) (i : Slot) (m : Bool) (s : State) : (takeMore l i m s).hli = s.hli := by
  simp only [takeMore]; (repeat' split) <;> simp
@[simp] theorem takeMore_drops (l : Line) (i : Slot) (m : Bool) (s : State) : (takeMore l i m s).drops = s.drops := by
  simp only [takeMore]; (repeat' split) <;> simp
@[simp] theorem takeMore_retire (l : Line) (i : Slot) (m : Bool) (s : State) : (takeMore l i m s).retire = s.retire := by
  simp only [takeMore]; (repeat' split) <;> simp
@[simp] theorem takeMore_store (l : Line) (i : Slot) (m : Bool) (s : State) : (takeMore l i m s).store = s.store := by
  simp only [takeMore]; (repeat' split) <;> simp
@[simp] theorem takeMore_au (l : Line) (i : Slot) (m : Bool) (s : State) : (takeMore l i m s).au = s.au := by
  simp only [takeMore]; (repeat' split) <;> simp

@[simp] theorem takeResyncAck_pending (i : Slot) (s : State) : (takeResyncAck i s).pending = s.pending := by
  simp [takeResyncAck]
@[simp] theorem takeResyncAck_timebase (i : Slot) (s : State) : (takeResyncAck i s).timebase = s.timebase := by
  simp [takeResyncAck]
@[simp] theorem takeResyncAck_hli (i : Slot) (s : State) : (takeResyncAck i s).hli = s.hli := by
  simp [takeResyncAck]
@[simp] theorem takeResyncAck_retire (i : Slot) (s : State) : (takeResyncAck i s).retire = s.retire := by
  simp [takeResyncAck]
@[simp] theorem takeResyncAck_store (i : Slot) (s : State) : (takeResyncAck i s).store = s.store := by
  simp [takeResyncAck]
@[simp] theorem takeResyncAck_lcA (i : Slot) (s : State) : (takeResyncAck i s).lcA = s.lcA := by
  simp [takeResyncAck]
@[simp] theorem takeResyncAck_lcB (i : Slot) (s : State) : (takeResyncAck i s).lcB = s.lcB := by
  simp [takeResyncAck]
@[simp] theorem takeResyncAck_au (i : Slot) (s : State) : (takeResyncAck i s).au = s.au := by
  simp [takeResyncAck]

@[simp] theorem takeResyncReq_pending (i : Slot) (s : State) : (takeResyncReq i s).pending = s.pending := by
  simp [takeResyncReq]
@[simp] theorem takeResyncReq_timebase (i : Slot) (s : State) : (takeResyncReq i s).timebase = s.timebase := by
  simp [takeResyncReq]
@[simp] theorem takeResyncReq_hli (i : Slot) (s : State) : (takeResyncReq i s).hli = s.hli := by
  simp [takeResyncReq]
@[simp] theorem takeResyncReq_retire (i : Slot) (s : State) : (takeResyncReq i s).retire = s.retire := by
  simp [takeResyncReq]
@[simp] theorem takeResyncReq_store (i : Slot) (s : State) : (takeResyncReq i s).store = s.store := by
  simp [takeResyncReq]
@[simp] theorem takeResyncReq_lcA (i : Slot) (s : State) : (takeResyncReq i s).lcA = s.lcA := by
  simp [takeResyncReq]
@[simp] theorem takeResyncReq_lcB (i : Slot) (s : State) : (takeResyncReq i s).lcB = s.lcB := by
  simp [takeResyncReq]

@[simp] theorem processReply_pending (l : Line) (v : Visit) (f : DropFrame) (s : State) : (processReply l v f s).pending = s.pending := by
  simp only [processReply]; (repeat' split) <;> simp
@[simp] theorem processReply_timebase (l : Line) (v : Visit) (f : DropFrame) (s : State) : (processReply l v f s).timebase = s.timebase := by
  simp only [processReply]; (repeat' split) <;> simp
@[simp] theorem processReply_hli (l : Line) (v : Visit) (f : DropFrame) (s : State) : (processReply l v f s).hli = s.hli := by
  simp only [processReply]; (repeat' split) <;> simp
@[simp] theorem processReply_retire (l : Line) (v : Visit) (f : DropFrame) (s : State) : (processReply l v f s).retire = s.retire := by
  simp only [processReply]; (repeat' split) <;> simp

@[simp] theorem noteState_pending (i : Slot) (d : DropState) (s : State) : (noteState i d s).pending = s.pending := by
  simp only [noteState]; (repeat' split) <;> simp
@[simp] theorem noteState_timebase (i : Slot) (d : DropState) (s : State) : (noteState i d s).timebase = s.timebase := by
  simp only [noteState]; (repeat' split) <;> simp
@[simp] theorem noteState_hli (i : Slot) (d : DropState) (s : State) : (noteState i d s).hli = s.hli := by
  simp only [noteState]; (repeat' split) <;> simp
@[simp] theorem noteState_drops (i : Slot) (d : DropState) (s : State) : (noteState i d s).drops = s.drops := by
  simp only [noteState]; (repeat' split) <;> simp
@[simp] theorem noteState_retire (i : Slot) (d : DropState) (s : State) : (noteState i d s).retire = s.retire := by
  simp only [noteState]; (repeat' split) <;> simp
@[simp] theorem noteState_store (i : Slot) (d : DropState) (s : State) : (noteState i d s).store = s.store := by
  simp only [noteState]; (repeat' split) <;> simp
@[simp] theorem noteState_lcA (i : Slot) (d : DropState) (s : State) : (noteState i d s).lcA = s.lcA := by
  simp only [noteState]; (repeat' split) <;> simp
@[simp] theorem noteState_lcB (i : Slot) (d : DropState) (s : State) : (noteState i d s).lcB = s.lcB := by
  simp only [noteState]; (repeat' split) <;> simp

@[simp] theorem reportSuccess_pending (i : Slot) (a : Bool) (s : State) : (reportSuccess i a s).pending = s.pending := by
  simp only [reportSuccess]; (repeat' split) <;> simp
@[simp] theorem reportSuccess_timebase (i : Slot) (a : Bool) (s : State) : (reportSuccess i a s).timebase = s.timebase := by
  simp only [reportSuccess]; (repeat' split) <;> simp
@[simp] theorem reportSuccess_hli (i : Slot) (a : Bool) (s : State) : (reportSuccess i a s).hli = s.hli := by
  simp only [reportSuccess]; (repeat' split) <;> simp
@[simp] theorem reportSuccess_retire (i : Slot) (a : Bool) (s : State) : (reportSuccess i a s).retire = s.retire := by
  simp only [reportSuccess]; (repeat' split) <;> simp
@[simp] theorem reportSuccess_store (i : Slot) (a : Bool) (s : State) : (reportSuccess i a s).store = s.store := by
  simp only [reportSuccess]; (repeat' split) <;> simp

@[simp] theorem reportFailure_pending (i : Slot) (s : State) : (reportFailure i s).pending = s.pending := by
  simp only [reportFailure]; (repeat' split) <;> simp
@[simp] theorem reportFailure_timebase (i : Slot) (s : State) : (reportFailure i s).timebase = s.timebase := by
  simp only [reportFailure]; (repeat' split) <;> simp
@[simp] theorem reportFailure_hli (i : Slot) (s : State) : (reportFailure i s).hli = s.hli := by
  simp only [reportFailure]; (repeat' split) <;> simp
@[simp] theorem reportFailure_retire (i : Slot) (s : State) : (reportFailure i s).retire = s.retire := by
  simp only [reportFailure]; (repeat' split) <;> simp
@[simp] theorem reportFailure_store (i : Slot) (s : State) : (reportFailure i s).store = s.store := by
  simp only [reportFailure]; (repeat' split) <;> simp

@[simp] theorem report_pending (i : Slot) (o : VisitOutcome) (s : State) : (report i o s).pending = s.pending := by
  simp only [report]; (repeat' split) <;> simp
@[simp] theorem report_timebase (i : Slot) (o : VisitOutcome) (s : State) : (report i o s).timebase = s.timebase := by
  simp only [report]; (repeat' split) <;> simp
@[simp] theorem report_hli (i : Slot) (o : VisitOutcome) (s : State) : (report i o s).hli = s.hli := by
  simp only [report]; (repeat' split) <;> simp
@[simp] theorem report_retire (i : Slot) (o : VisitOutcome) (s : State) : (report i o s).retire = s.retire := by
  simp only [report]; (repeat' split) <;> simp
@[simp] theorem report_store (i : Slot) (o : VisitOutcome) (s : State) : (report i o s).store = s.store := by
  simp only [report]; (repeat' split) <;> simp

@[simp] theorem requeueProbed_pending (l : Line) (i : Slot) (s : State) : (requeueProbed l i s).pending = s.pending := by
  simp only [requeueProbed]; (repeat' split) <;> simp
@[simp] theorem requeueProbed_timebase (l : Line) (i : Slot) (s : State) : (requeueProbed l i s).timebase = s.timebase := by
  simp only [requeueProbed]; (repeat' split) <;> simp
@[simp] theorem requeueProbed_hli (l : Line) (i : Slot) (s : State) : (requeueProbed l i s).hli = s.hli := by
  simp only [requeueProbed]; (repeat' split) <;> simp
@[simp] theorem requeueProbed_drops (l : Line) (i : Slot) (s : State) : (requeueProbed l i s).drops = s.drops := by
  simp only [requeueProbed]; (repeat' split) <;> simp
@[simp] theorem requeueProbed_retire (l : Line) (i : Slot) (s : State) : (requeueProbed l i s).retire = s.retire := by
  simp only [requeueProbed]; (repeat' split) <;> simp
@[simp] theorem requeueProbed_store (l : Line) (i : Slot) (s : State) : (requeueProbed l i s).store = s.store := by
  simp only [requeueProbed]; (repeat' split) <;> simp
@[simp] theorem requeueProbed_au (l : Line) (i : Slot) (s : State) : (requeueProbed l i s).au = s.au := by
  simp only [requeueProbed]; (repeat' split) <;> simp

@[simp] theorem freeLine_pending (l : Line) (o : Origin) (s : State) : (freeLine l o s).pending = s.pending := by
  simp only [freeLine]; (repeat' split) <;> simp
@[simp] theorem freeLine_timebase (l : Line) (o : Origin) (s : State) : (freeLine l o s).timebase = s.timebase := by
  simp only [freeLine]; (repeat' split) <;> simp
@[simp] theorem freeLine_drops (l : Line) (o : Origin) (s : State) : (freeLine l o s).drops = s.drops := by
  simp only [freeLine]; (repeat' split) <;> simp
@[simp] theorem freeLine_retire (l : Line) (o : Origin) (s : State) : (freeLine l o s).retire = s.retire := by
  simp only [freeLine]; (repeat' split) <;> simp
@[simp] theorem freeLine_store (l : Line) (o : Origin) (s : State) : (freeLine l o s).store = s.store := by
  simp only [freeLine]; (repeat' split) <;> simp
@[simp] theorem freeLine_au (l : Line) (o : Origin) (s : State) : (freeLine l o s).au = s.au := by
  simp only [freeLine]; (repeat' split) <;> simp

@[simp] theorem takeReply_pending (l : Line) (v : Visit) (r : Option DropFrame) (s : State) : (takeReply l v r s).pending = s.pending := by
  simp only [takeReply]; (repeat' split) <;> simp
@[simp] theorem takeReply_timebase (l : Line) (v : Visit) (r : Option DropFrame) (s : State) : (takeReply l v r s).timebase = s.timebase := by
  simp only [takeReply]; (repeat' split) <;> simp
@[simp] theorem takeReply_hli (l : Line) (v : Visit) (r : Option DropFrame) (s : State) : (takeReply l v r s).hli = s.hli := by
  simp only [takeReply]; (repeat' split) <;> simp
@[simp] theorem takeReply_retire (l : Line) (v : Visit) (r : Option DropFrame) (s : State) : (takeReply l v r s).retire = s.retire := by
  simp only [takeReply]; (repeat' split) <;> simp

@[simp] theorem closeLive_pending (l : Line) (v : Visit) (r : Option DropFrame) (s : State) : (closeLive l v r s).pending = s.pending := by
  simp [closeLive]
@[simp] theorem closeLive_timebase (l : Line) (v : Visit) (r : Option DropFrame) (s : State) : (closeLive l v r s).timebase = s.timebase := by
  simp [closeLive]
@[simp] theorem closeLive_retire (l : Line) (v : Visit) (r : Option DropFrame) (s : State) : (closeLive l v r s).retire = s.retire := by
  simp [closeLive]

@[simp] theorem endVisit_pending (l : Line) (v : Visit) (r : Option DropFrame) (s : State) : (endVisit l v r s).pending = s.pending := by
  simp only [endVisit]; (repeat' split) <;> simp
@[simp] theorem endVisit_timebase (l : Line) (v : Visit) (r : Option DropFrame) (s : State) : (endVisit l v r s).timebase = s.timebase := by
  simp only [endVisit]; (repeat' split) <;> simp

@[simp] theorem countError_pending (i : Slot) (s : State) : (countError i s).pending = s.pending := by
  simp [countError]
@[simp] theorem countError_timebase (i : Slot) (s : State) : (countError i s).timebase = s.timebase := by
  simp [countError]
@[simp] theorem countError_hli (i : Slot) (s : State) : (countError i s).hli = s.hli := by
  simp [countError]
@[simp] theorem countError_retire (i : Slot) (s : State) : (countError i s).retire = s.retire := by
  simp [countError]
@[simp] theorem countError_store (i : Slot) (s : State) : (countError i s).store = s.store := by
  simp [countError]
@[simp] theorem countError_lcA (i : Slot) (s : State) : (countError i s).lcA = s.lcA := by
  simp [countError]
@[simp] theorem countError_lcB (i : Slot) (s : State) : (countError i s).lcB = s.lcB := by
  simp [countError]
@[simp] theorem countError_au (i : Slot) (s : State) : (countError i s).au = s.au := by
  simp [countError]

@[simp] theorem attemptFailed_pending (l : Line) (v : Visit) (s : State) : (attemptFailed l v s).pending = s.pending := by
  simp only [attemptFailed]; (repeat' split) <;> simp
@[simp] theorem attemptFailed_timebase (l : Line) (v : Visit) (s : State) : (attemptFailed l v s).timebase = s.timebase := by
  simp only [attemptFailed]; (repeat' split) <;> simp

@[simp] theorem sendPending_pending (l : Line) (s : State) : (sendPending l s).pending = s.pending := by
  simp only [sendPending]; (repeat' split) <;> simp
@[simp] theorem sendPending_timebase (l : Line) (s : State) : (sendPending l s).timebase = s.timebase := by
  simp only [sendPending]; (repeat' split) <;> simp
@[simp] theorem sendPending_hli (l : Line) (s : State) : (sendPending l s).hli = s.hli := by
  simp only [sendPending]; (repeat' split) <;> simp
@[simp] theorem sendPending_drops (l : Line) (s : State) : (sendPending l s).drops = s.drops := by
  simp only [sendPending]; (repeat' split) <;> simp
@[simp] theorem sendPending_retire (l : Line) (s : State) : (sendPending l s).retire = s.retire := by
  simp only [sendPending]; (repeat' split) <;> simp
@[simp] theorem sendPending_store (l : Line) (s : State) : (sendPending l s).store = s.store := by
  simp only [sendPending]; (repeat' split) <;> simp
@[simp] theorem sendPending_au (l : Line) (s : State) : (sendPending l s).au = s.au := by
  simp only [sendPending]; (repeat' split) <;> simp

@[simp] theorem turnaroundGapElapsed_pending (l : Line) (s : State) : (turnaroundGapElapsed l s).pending = s.pending := by
  simp only [turnaroundGapElapsed]; (repeat' split) <;> simp
@[simp] theorem turnaroundGapElapsed_timebase (l : Line) (s : State) : (turnaroundGapElapsed l s).timebase = s.timebase := by
  simp only [turnaroundGapElapsed]; (repeat' split) <;> simp
@[simp] theorem turnaroundGapElapsed_hli (l : Line) (s : State) : (turnaroundGapElapsed l s).hli = s.hli := by
  simp only [turnaroundGapElapsed]; (repeat' split) <;> simp
@[simp] theorem turnaroundGapElapsed_drops (l : Line) (s : State) : (turnaroundGapElapsed l s).drops = s.drops := by
  simp only [turnaroundGapElapsed]; (repeat' split) <;> simp
@[simp] theorem turnaroundGapElapsed_retire (l : Line) (s : State) : (turnaroundGapElapsed l s).retire = s.retire := by
  simp only [turnaroundGapElapsed]; (repeat' split) <;> simp
@[simp] theorem turnaroundGapElapsed_store (l : Line) (s : State) : (turnaroundGapElapsed l s).store = s.store := by
  simp only [turnaroundGapElapsed]; (repeat' split) <;> simp
@[simp] theorem turnaroundGapElapsed_au (l : Line) (s : State) : (turnaroundGapElapsed l s).au = s.au := by
  simp only [turnaroundGapElapsed]; (repeat' split) <;> simp

@[simp] theorem gapWaitLimitExpiry_pending (l : Line) (s : State) : (gapWaitLimitExpiry l s).pending = s.pending := by
  simp only [gapWaitLimitExpiry]; (repeat' split) <;> simp
@[simp] theorem gapWaitLimitExpiry_timebase (l : Line) (s : State) : (gapWaitLimitExpiry l s).timebase = s.timebase := by
  simp only [gapWaitLimitExpiry]; (repeat' split) <;> simp
@[simp] theorem gapWaitLimitExpiry_hli (l : Line) (s : State) : (gapWaitLimitExpiry l s).hli = s.hli := by
  simp only [gapWaitLimitExpiry]; (repeat' split) <;> simp
@[simp] theorem gapWaitLimitExpiry_drops (l : Line) (s : State) : (gapWaitLimitExpiry l s).drops = s.drops := by
  simp only [gapWaitLimitExpiry]; (repeat' split) <;> simp
@[simp] theorem gapWaitLimitExpiry_retire (l : Line) (s : State) : (gapWaitLimitExpiry l s).retire = s.retire := by
  simp only [gapWaitLimitExpiry]; (repeat' split) <;> simp
@[simp] theorem gapWaitLimitExpiry_store (l : Line) (s : State) : (gapWaitLimitExpiry l s).store = s.store := by
  simp only [gapWaitLimitExpiry]; (repeat' split) <;> simp
@[simp] theorem gapWaitLimitExpiry_au (l : Line) (s : State) : (gapWaitLimitExpiry l s).au = s.au := by
  simp only [gapWaitLimitExpiry]; (repeat' split) <;> simp

@[simp] theorem frameSent_pending (l : Line) (s : State) : (frameSent l s).pending = s.pending := by
  simp only [frameSent]; (repeat' split) <;> simp
@[simp] theorem frameSent_timebase (l : Line) (s : State) : (frameSent l s).timebase = s.timebase := by
  simp only [frameSent]; (repeat' split) <;> simp
@[simp] theorem frameSent_hli (l : Line) (s : State) : (frameSent l s).hli = s.hli := by
  simp only [frameSent]; (repeat' split) <;> simp
@[simp] theorem frameSent_drops (l : Line) (s : State) : (frameSent l s).drops = s.drops := by
  simp only [frameSent]; (repeat' split) <;> simp
@[simp] theorem frameSent_retire (l : Line) (s : State) : (frameSent l s).retire = s.retire := by
  simp only [frameSent]; (repeat' split) <;> simp
@[simp] theorem frameSent_store (l : Line) (s : State) : (frameSent l s).store = s.store := by
  simp only [frameSent]; (repeat' split) <;> simp
@[simp] theorem frameSent_au (l : Line) (s : State) : (frameSent l s).au = s.au := by
  simp only [frameSent]; (repeat' split) <;> simp

@[simp] theorem replyTimeout_pending (l : Line) (s : State) : (replyTimeout l s).pending = s.pending := by
  simp only [replyTimeout]; (repeat' split) <;> simp
@[simp] theorem replyTimeout_timebase (l : Line) (s : State) : (replyTimeout l s).timebase = s.timebase := by
  simp only [replyTimeout]; (repeat' split) <;> simp

@[simp] theorem intraFrameGapExpiry_pending (l : Line) (s : State) : (intraFrameGapExpiry l s).pending = s.pending := by
  simp only [intraFrameGapExpiry]; (repeat' split) <;> simp
@[simp] theorem intraFrameGapExpiry_timebase (l : Line) (s : State) : (intraFrameGapExpiry l s).timebase = s.timebase := by
  simp only [intraFrameGapExpiry]; (repeat' split) <;> simp

@[simp] theorem takeReplyChar_pending (l : Line) (v : Visit) (g : List Byte) (c : FieldChar) (s : State) : (takeReplyChar l v g c s).pending = s.pending := by
  simp only [takeReplyChar]; (repeat' split) <;> simp
@[simp] theorem takeReplyChar_timebase (l : Line) (v : Visit) (g : List Byte) (c : FieldChar) (s : State) : (takeReplyChar l v g c s).timebase = s.timebase := by
  simp only [takeReplyChar]; (repeat' split) <;> simp

@[simp] theorem noteStopError_pending (l : Line) (c : FieldChar) (s : State) : (noteStopError l c s).pending = s.pending := by
  simp only [noteStopError]; (repeat' split) <;> simp
@[simp] theorem noteStopError_timebase (l : Line) (c : FieldChar) (s : State) : (noteStopError l c s).timebase = s.timebase := by
  simp only [noteStopError]; (repeat' split) <;> simp
@[simp] theorem noteStopError_hli (l : Line) (c : FieldChar) (s : State) : (noteStopError l c s).hli = s.hli := by
  simp only [noteStopError]; (repeat' split) <;> simp
@[simp] theorem noteStopError_drops (l : Line) (c : FieldChar) (s : State) : (noteStopError l c s).drops = s.drops := by
  simp only [noteStopError]; (repeat' split) <;> simp
@[simp] theorem noteStopError_retire (l : Line) (c : FieldChar) (s : State) : (noteStopError l c s).retire = s.retire := by
  simp only [noteStopError]; (repeat' split) <;> simp
@[simp] theorem noteStopError_store (l : Line) (c : FieldChar) (s : State) : (noteStopError l c s).store = s.store := by
  simp only [noteStopError]; (repeat' split) <;> simp
@[simp] theorem noteStopError_au (l : Line) (c : FieldChar) (s : State) : (noteStopError l c s).au = s.au := by
  simp only [noteStopError]; (repeat' split) <;> simp

@[simp] theorem fieldChar_pending (l : Line) (c : FieldChar) (s : State) : (fieldChar l c s).pending = s.pending := by
  simp only [fieldChar]; (repeat' split) <;> simp
@[simp] theorem fieldChar_timebase (l : Line) (c : FieldChar) (s : State) : (fieldChar l c s).timebase = s.timebase := by
  simp only [fieldChar]; (repeat' split) <;> simp

@[simp] theorem fieldInputHigh_pending (l : Line) (s : State) : (fieldInputHigh l s).pending = s.pending := by
  simp [fieldInputHigh]
@[simp] theorem fieldInputHigh_timebase (l : Line) (s : State) : (fieldInputHigh l s).timebase = s.timebase := by
  simp [fieldInputHigh]
@[simp] theorem fieldInputHigh_hli (l : Line) (s : State) : (fieldInputHigh l s).hli = s.hli := by
  simp [fieldInputHigh]
@[simp] theorem fieldInputHigh_drops (l : Line) (s : State) : (fieldInputHigh l s).drops = s.drops := by
  simp [fieldInputHigh]
@[simp] theorem fieldInputHigh_retire (l : Line) (s : State) : (fieldInputHigh l s).retire = s.retire := by
  simp [fieldInputHigh]
@[simp] theorem fieldInputHigh_store (l : Line) (s : State) : (fieldInputHigh l s).store = s.store := by
  simp [fieldInputHigh]
@[simp] theorem fieldInputHigh_au (l : Line) (s : State) : (fieldInputHigh l s).au = s.au := by
  simp [fieldInputHigh]

end Sys2Proof.Machine
end

