-- ==== Sys2Proof/Laws/VisitEnd.lean ====
section
/-!
SUPPORT. What each part of the end-of-visit act does, in the words of Safety.lean: one lemma per operation, which says all
that a statement about the end of a visit needs of it.
-/

namespace Sys2Proof.Machine

/-! ## The cut-off (R94) -/

/-- The alert mark of the model is that of the statements (R93). -/
theorem alertMarkOf_eq (d : Drop) (m : InMsg) : alertMarkOf d.alertByte m = d.marks m := by
  simp only [alertMarkOf, Drop.marks]
  cases d.alertByte <;> cases m.payload <;> simp
  rfl

/-- A cut-off reads four fields of the drop alone. -/
theorem CutOff.of_eq {d d' e e' : Drop} (h : CutOff d e) (h1 : d'.partialMsg = d.partialMsg) (h2 : d'.inbox = d.inbox)
    (h3 : d'.nextInId = d.nextInId) (h4 : d'.alertByte = d.alertByte) (h5 : e' = e) : CutOff d' e' := by
  subst h5
  simp only [CutOff, Joined, Drop.marks, h1, h2, h3, h4] at h ⊢
  exact h

/-- The attention instances after a cut-off read two fields of the drop before it. -/
theorem afterCut_of_eq {d d' : Drop} (a : SlotAttn) (e : Drop) (h1 : d'.partialMsg = d.partialMsg)
    (h2 : d'.alertByte = d.alertByte) : a.afterCut d' e = a.afterCut d e := by
  simp only [SlotAttn.afterCut, Drop.marks, h1, h2]

theorem SameAttnBut.trans {i : Slot} {s t u : State} (h : SameAttnBut i s t) (g : SameAttnBut i t u) : SameAttnBut i s u :=
  ⟨fun j hj => (g.1 j hj).trans (h.1 j hj), fun l => (g.2 l).trans (h.2 l)⟩

/-- What a message that joins the inbox changes of its drop and of the Attention Unit. -/
theorem joinInbox_facts (i : Slot) (m : InMsg) (s : State) :
    (joinInbox i m s).drop i = { s.drop i with
        inbox := (s.drop i).inbox ++
          [{ m with id := some (s.drop i).nextInId, alertMark := alertMarkOf (s.drop i).alertByte m }]
        nextInId := (s.drop i).nextInId + 1#8
        partialMsg := none } ∧
      SameDropsBut i s (joinInbox i m s) ∧
      (joinInbox i m s).au.slot i = (s.au.slot i).gained ((s.drop i).marks m) ((joinInbox i m s).drop i) ∧
      SameAttnBut i s (joinInbox i m s) := by
  rw [← alertMarkOf_eq]
  refine ⟨?_, fun j h => ?_, ?_, fun j h => ?_, fun l => ?_⟩ <;> simp only [joinInbox, evalInbox, raiseInboxAlert] <;>
    split <;> simp_all [setDrop_drop_ne, modSlot_slot_ne, Ne.symm, SlotAttn.gained]

/-- A message that joins the inbox, in the words of the statements. -/
theorem joinInbox_joined (i : Slot) (m : InMsg) (s : State) : Joined m (s.drop i) ((joinInbox i m s).drop i) := by
  rw [(joinInbox_facts i m s).1, alertMarkOf_eq]
  exact ⟨rfl, rfl, rfl⟩

/-- The cut-off of a partial message, and nothing when there is none. -/
theorem cutOff_facts (i : Slot) (s : State) :
    (cutOff i s).drop i = { s.drop i with
        inbox := ((cutOff i s).drop i).inbox, nextInId := ((cutOff i s).drop i).nextInId, partialMsg := none } ∧
      CutOff (s.drop i) ((cutOff i s).drop i) ∧ SameDropsBut i s (cutOff i s) ∧
      (cutOff i s).au.slot i = (s.au.slot i).afterCut (s.drop i) ((cutOff i s).drop i) ∧
      SameAttnBut i s (cutOff i s) := by
  cases h : (s.drop i).partialMsg with
  | none =>
    have e : cutOff i s = s := by simp [cutOff, h]
    rw [e]
    refine ⟨?_, ⟨fun _ => ⟨h, rfl, rfl⟩, fun p hp => by simp [h] at hp⟩, fun _ _ => rfl, by simp [SlotAttn.afterCut, h],
      fun _ _ => rfl, fun _ => rfl⟩
    cases hd : s.drop i; simp_all
  | some p =>
    have e : cutOff i s = joinInbox i { p with status := .incomplete } s := by simp [cutOff, h]
    obtain ⟨h1, h2, h3, h4⟩ := joinInbox_facts i { p with status := .incomplete } s
    rw [e]
    refine ⟨by rw [h1], ⟨fun hn => by simp [h] at hn, fun q hq => ?_⟩, h2, ?_, h4⟩
    rotate_left
    · rw [h3, SlotAttn.afterCut, h]; rfl
    rw [h] at hq
    cases hq
    exact joinInbox_joined i _ s

/-! ## Taking another place, and the loss of a drop (R30, R49, R153, R154) -/

/-- A drop that takes a place: its entry, its two lines, and nothing of another drop, of the store or of the host link. -/
theorem relocate_facts (i : Slot) (line : Line) (addr : Byte) (s : State) :
    Arrived line addr (s.drop i) ((relocate i line addr s).drop i) ∧ SameDropsBut i s (relocate i line addr s) ∧
      ChangedLine i (s.drop i).currentLine line (s.drop i).cls s (relocate i line addr s) ∧
      (relocate i line addr s).au.slot i = (s.au.slot i).afterCut (s.drop i) ((relocate i line addr s).drop i) ∧
      SameAttnBut i s (relocate i line addr s) := by
  obtain ⟨h1, h2, h3, h4, h5, h6⟩ :=
    cutOff_facts i ((leaveLine (s.drop i).currentLine i s).modDrop i (Drop.arrive line addr))
  have hd : (cutOff i ((leaveLine (s.drop i).currentLine i s).modDrop i (Drop.arrive line addr))).drop i =
      (relocate i line addr s).drop i := by simp [relocate]
  have hc : ((relocate i line addr s).drop i).cls = (s.drop i).cls := by
    rw [← hd, h1]; simp [Drop.arrive]
  rw [hd] at h1 h2 h4
  refine ⟨⟨?_, ?_⟩, ?_, ⟨?_, ?_⟩, ?_, ?_, ?_⟩
  · rw [h1]; simp [Drop.arrive, resyncLink, LinkRecord.fresh, LinkRecord.cleared]
  · exact h2.of_eq (by simp [Drop.arrive]) (by simp [Drop.arrive]) (by simp [Drop.arrive]) (by simp [Drop.arrive]) rfl
  · intro j hj
    rw [show (relocate i line addr s).drop j = _ from joinRing_drop ..]
    rw [h3 j hj, modDrop_drop_ne (Ne.symm hj)]
    simp
  · have : (relocate i line addr s).lc line = ((leaveLine (s.drop i).currentLine i s).lc line).ringAppend i (s.drop i).cls := by
      rw [← hc]; simp [relocate, joinRing]
    rw [this, leaveLine, modLc_lc]
    split <;> rename_i h
    · simp only [h]
    · rfl
  · intro m hm
    have : (relocate i line addr s).lc m = (leaveLine (s.drop i).currentLine i s).lc m := by
      rw [relocate, joinRing, modLc_lc_ne hm]; simp
    rw [this, leaveLine, modLc_lc]
    split <;> rename_i h
    · simp only [h]
    · rfl
  · rw [afterCut_of_eq (d := s.drop i) _ _ (by simp [Drop.arrive]) (by simp [Drop.arrive])] at h4
    refine Eq.trans ?_ (h4.trans (by simp))
    simp [relocate]
  · intro j hj; simpa [relocate] using h5 j hj
  · intro l; simpa [relocate] using h6 l

/-- A drop that becomes LOST: its entry, its line, and nothing of another drop, of the store or of the host link. -/
theorem loseDrop_facts (i : Slot) (s : State) :
    (loseDrop i s).drop i = { s.drop i with
        state := .lost, link := { (s.drop i).link with resyncNeeded := true, segIndex := 0 }, settleWait := false
        inbox := ((loseDrop i s).drop i).inbox, nextInId := ((loseDrop i s).drop i).nextInId, partialMsg := none } ∧
      CutOff (s.drop i) ((loseDrop i s).drop i) ∧ SameDropsBut i s (loseDrop i s) ∧
      (∀ m, (loseDrop i s).lc m = if m = (s.drop i).currentLine
        then { (s.lc m).ringRemove i with probeList := ((s.lc m).ringRemove i).probeList ++ [i] } else s.lc m) ∧
      (loseDrop i s).au.slot i = (s.au.slot i).afterCut (s.drop i) ((loseDrop i s).drop i) ∧
      SameAttnBut i s (loseDrop i s) := by
  obtain ⟨h1, h2, h3, h4, h5, h6⟩ :=
    cutOff_facts i (ringToProbe (s.drop i).currentLine i (s.modDrop i (fun d => { needResync d with state := .lost })))
  refine ⟨?_, ?_, ?_, ?_, ?_, ?_, ?_⟩
  · show (cutOff i _).drop i = _
    rw [h1]; simp [needResync]; exact ⟨rfl, rfl⟩
  · exact h2.of_eq (by simp [needResync]) (by simp [needResync]) (by simp [needResync]) (by simp [needResync]) rfl
  · intro j hj
    rw [show (loseDrop i s).drop j = _ from h3 j hj]
    simp [modDrop_drop_ne (Ne.symm hj)]
  · intro m
    simp only [loseDrop, cutOff_lc, ringToProbe, modLc_lc, modDrop_lc]
    split <;> rename_i h
    · simp only [h]
    · rfl
  · rw [afterCut_of_eq (d := s.drop i) _ _ (by simp [needResync]) (by simp [needResync])] at h4
    exact h4.trans (by simp [loseDrop])
  · intro j hj; exact (h5 j hj).trans (by simp)
  · intro l; exact (h6 l).trans (by simp)

/-! ## The outcome report (R27 to R32) -/

@[simp] theorem noteState_drop (i : Slot) (d : DropState) (s : State) (j : Slot) : (noteState i d s).drop j = s.drop j := by
  simp [State.drop]

@[simp] theorem noteState_lc (i : Slot) (d : DropState) (s : State) (l : Line) : (noteState i d s).lc l = s.lc l := by
  cases l <;> simp [State.lc]

theorem noteState_au (i : Slot) (d : DropState) (s : State) :
    (noteState i d s).au =
      if (s.drop i).state = d then s.au else s.au.modSlot i (fun a => { a with dropState := true }) := by
  simp only [noteState]; split <;> rfl

/-- The report of a success, in the words of the statements. -/
theorem reportSuccess_facts (i : Slot) (ack : Bool) (s : State) (h : (s.drop i).state.live = true) :
    SuccessReported i ack s (reportSuccess i ack s) := by
  have hs : stateAfterSuccess (s.drop i).state ack =
      if ack = true ∨ (s.drop i).state = .suspect then DropState.online else (s.drop i).state := by
    unfold stateAfterSuccess
    cases ack <;> simp [h]
  unfold SuccessReported
  simp only [← hs]
  refine ⟨?_, fun j hj => ?_, by simp, by simp, by simp, fun m => ?_, ?_⟩
  · simp only [reportSuccess, noteState_drop]
    split <;> simp
  · simp only [reportSuccess, noteState_drop]
    split <;> simp [modDrop_drop_ne (Ne.symm hj)]
  · simp only [reportSuccess, noteState_lc]
    by_cases h1 : (s.drop i).state = .lost ∧ ack = true
    · rw [if_pos h1, probeToRing, modLc_lc]
      by_cases h2 : m = (s.drop i).currentLine
      · simp [h1, h2]
      · simp [h2]
    · rw [if_neg h1, if_neg (fun x => h1 ⟨x.2.1, x.1⟩)]; simp
  · simp only [reportSuccess, noteState_au]
    split <;> simp

/-- The report of a failure, in the words of the statements. -/
theorem reportFailure_facts (i : Slot) (s : State) (h : (s.drop i).state.live = true) :
    FailureReported i s (reportFailure i s) := by
  have hm : (missAfter (s.drop i).missCount).toNat = min 255 ((s.drop i).missCount.toNat + 1) := by
    simp [missAfter, satAdd, byteOf_toNat (n := min 255 _) (by omega)]
  have ha : stateAfterMiss (s.drop i).state (missAfter (s.drop i).missCount) =
      if 3 ≤ min 255 ((s.drop i).missCount.toNat + 1) ∨ (s.drop i).state = .lost then DropState.lost
      else if (s.drop i).state = .joining then .joining else .suspect := by
    cases hd : (s.drop i).state <;> simp_all [stateAfterMiss, Config.lossThreshold, DropState.live]
  unfold FailureReported
  simp only [← ha]
  generalize hg : stateAfterMiss (s.drop i).state (missAfter (s.drop i).missCount) = after
  have hb : missAfter (s.drop i).missCount = BitVec.ofNat 8 (min 255 ((s.drop i).missCount.toNat + 1)) := rfl
  by_cases hf : after = .lost ∧ (s.drop i).state ≠ .lost
  · have e : reportFailure i s = noteState i (s.drop i).state
        (loseDrop i (s.modDrop i (fun d => { d with missCount := missAfter (s.drop i).missCount, state := after }))) := by
      simp only [reportFailure, hg]; rw [if_pos hf]
    obtain ⟨h1, h2, h3, h4, h5, h6, h7⟩ := loseDrop_facts i
      (s.modDrop i (fun d => { d with missCount := missAfter (s.drop i).missCount, state := after }))
    refine ⟨?_, fun _ => ?_, fun hn => absurd hf hn, fun j hj => ?_, by simp, by simp, by simp, fun m => ?_, ?_, fun j hj => ?_,
      fun m => ?_⟩
    · rw [e, noteState_drop, h1]; simp [hf, ← hb]
    · rw [e, noteState_drop]
      exact h2.of_eq (by simp) (by simp) (by simp) (by simp) rfl
    · rw [e, noteState_drop, h3 j hj, modDrop_drop_ne (Ne.symm hj)]
    · rw [e, noteState_lc, h4]; simp [hf]
    · rw [afterCut_of_eq (d := s.drop i) _ _ (by simp) (by simp)] at h5
      have hst := congrArg Drop.state h1
      rw [e, noteState_drop, noteState_au, if_neg (by rw [hst]; exact hf.2.symm), modSlot_slot_same, h5, if_pos hf]
      simp [hf.1, hf.2.symm]
    · rw [e, noteState_au]
      split
      · rw [h6 j hj]; simp
      · rw [modSlot_slot_ne hj, h6 j hj]; simp
    · rw [e, noteState_au]
      split
      · rw [h7]; simp
      · rw [modSlot_line, h7]; simp
  · have e : reportFailure i s = noteState i (s.drop i).state
        (s.modDrop i (fun d => { d with missCount := missAfter (s.drop i).missCount, state := after })) := by
      simp only [reportFailure, hg]; rw [if_neg hf]
    refine ⟨?_, fun hn => absurd hn hf, fun _ => ?_, fun j hj => ?_, by simp, by simp, by simp, fun m => ?_, ?_, fun j hj => ?_,
      fun m => ?_⟩
    · rw [e, noteState_drop]; simp [hf, ← hb]
    · rw [e, noteState_drop]; simp
    · rw [e, noteState_drop, modDrop_drop_ne (Ne.symm hj)]
    · rw [e, noteState_lc, if_neg (fun x => hf x.1)]; simp
    · rw [e, noteState_au]
      split <;> simp_all
    · rw [e, noteState_au]
      split <;> simp [modSlot_slot_ne hj]
    · rw [e, noteState_au]
      split <;> simp

/-! ## The pending move (R52) -/

/-- The pending move of a drop whose visit has ended, in the words of the statements. -/
theorem settlePendingMove_facts (i : Slot) (s : State) : MoveSettled i s (settlePendingMove i s) := by
  refine ⟨fun h => by simp [settlePendingMove, h], fun p h => ⟨fun hf => ?_, fun hf => ?_⟩⟩
  · simp only [settlePendingMove, h, hf, if_true]
    rfl
  · have e : settlePendingMove i s = post p.tag .dropMove .ok [] (applyMove i p.line p.address p.setHome s) := by
      simp only [settlePendingMove, h]; rw [if_neg hf]
    obtain ⟨⟨h1, h2⟩, h3, ⟨h4, h4'⟩, h5, h6, h7⟩ := relocate_facts i p.line p.address
      (s.modDrop i (fun d => { d.rehome p.line p.setHome with missCount := 0 }))
    have hd : ((s.drop i).rehome p.line p.setHome) = { s.drop i with
        homeLine := if p.setHome then p.line else (s.drop i).homeLine
        alternate := if p.setHome ∧ (s.drop i).alternate = some p.line then some (s.drop i).homeLine
          else (s.drop i).alternate } := by
      unfold Drop.rehome
      cases p.setHome <;> simp
    rw [e]
    refine ⟨⟨?_, ?_⟩, fun j hj => ?_, ⟨?_, fun m hm => ?_⟩, by simp, by simp, ?_, ?_, fun j hj => ?_, fun m => ?_⟩
    · rw [post_drop, applyMove, h1]; simp [hd]
    · rw [post_drop]
      exact h2.of_eq (by simp [hd]) (by simp [hd]) (by simp [hd]) (by simp [hd]) rfl
    · rw [post_drop, applyMove, h3 j hj, modDrop_drop_ne (Ne.symm hj)]
    · rw [post_lc, applyMove, h4]; simp [hd]
    · rw [post_lc, applyMove, h4' m hm]; simp [hd]
    · rw [post_hli]; simp; rfl
    · rw [post_au, post_drop, applyMove, h5, afterCut_of_eq (d := s.drop i) _ _ (by simp [hd]) (by simp [hd])]; simp
    · rw [post_au, applyMove, h6 j hj]; simp
    · rw [post_au, applyMove, h7 m]; simp

theorem setLc_setHli_self (l : Line) (c : LineCtl) (s : State) : (s.setLc l c).setHli s.hli = s.setLc l c := by
  cases l <;> rfl

/-! ## The freed line and the retired entry (R57, R133, R144) -/

/-- The line at the end of a visit, in the words of the statements. -/
theorem freeLine_facts (l : Line) (o : Origin) (s : State) : LineFreed l o s (freeLine l o s) := by
  refine ⟨fun h => ?_, fun h => ?_⟩
  · simp [freeLine, h, State.modLc]
  · simp only [freeLine, modLc_lc_same, h, if_true]
    cases ht : (s.lc l).stopTag with
    | none =>
      simp [answerStop, ht, State.modLc, setLc_setLc_same, setLc_setHli_self]
    | some st =>
      simp [answerStop, ht, State.modLc, setLc_setLc_same, post_eq]
      rfl

/-- The end of a visit to a RETIRING drop, in the words of the statements. -/
theorem finishRetiringVisit_facts (i : Slot) (s : State) : RetiredOut i s (finishRetiringVisit i s) := by
  refine ⟨fun h => ?_, fun op h1 h2 => ?_⟩
  · cases hr : s.retire with
    | none => simp [finishRetiringVisit, toVacant, hr, State.modDrop]
    | some op => simp [finishRetiringVisit, toVacant, hr, State.modDrop, h op hr]
  · have e : finishRetiringVisit i s = runRetire 65 ((toVacant i s).setRetire (some op.counted)) := by
      simp [finishRetiringVisit, h1, h2, retireFuel]
    have hv : toVacant i s = s.setDrop i (.vacant (s.drop i).generation) := rfl
    refine ⟨fun h3 => ?_, fun h3 h4 => ?_, fun h3 h4 => ?_⟩
    · rw [e, ← hv, runRetire]
      cases hc : op.cancelTag <;> simp [RetireOp.counted, h3, hc, endRetire, answerCancel, post_eq] <;> rfl
    · rw [e, ← hv, runRetire]
      cases hc : op.cancelTag with
      | none => exact absurd hc h4
      | some c => simp [RetireOp.counted, h3, hc, endRetire, answerCancel, post_eq]; rfl
    · rw [e, ← hv]
      exact runRetire_goesOn 65 op.counted _ h4 (by omega) (by omega)

/-! ## Failover (R152 to R154) -/

@[simp] theorem ringRemove_state (c : LineCtl) (i : Slot) : (c.ringRemove i).state = c.state := by
  unfold LineCtl.ringRemove; split <;> rfl

@[simp] theorem probeRemove_state (c : LineCtl) (i : Slot) : (c.probeRemove i).state = c.state := rfl

@[simp] theorem urgentRemove_state (c : LineCtl) (i : Slot) : (c.urgentRemove i).state = c.state := rfl

@[simp] theorem ringAppend_state (c : LineCtl) (i : Slot) (cls : Byte) : (c.ringAppend i cls).state = c.state := rfl

theorem placeTaken_eq_false (s : State) (l : Line) (a : Byte) (i : Slot) :
    s.placeTaken l a (some i) = false ↔ ∀ j, j ≠ i → (s.drop j).holds l a = false := by
  simp [State.placeTaken, allSlots]

/-- Failover takes a drop of a line in FAULT to the other line under the conditions of R152, and strands it otherwise. -/
theorem failoverTarget_eq {l : Line} {x : State} (i : Slot) (hf : (x.lc l).state = .fault) :
    (x.failsOver l i → x.failoverTarget i = some l.other) ∧ (¬ x.failsOver l i → x.failoverTarget i = none) := by
  unfold State.failoverTarget State.failsOver
  rw [← placeTaken_eq_false]
  cases ha : (x.drop i).alternate with
  | none => simp
  | some alt =>
    rcases line_cases l alt with rfl | rfl
    · simp [hf]
    · refine ⟨fun h => by simp [h], fun h => ?_⟩
      by_cases h1 : (x.lc l.other).state = .running <;> simp_all

/-- A slot's turn in failover, in the words of the statements: its effect, the tally, and the line still in FAULT. -/
theorem failoverSlot_facts (l : Line) (n : Tally) (x : State) (i : Slot) (hf : (x.lc l).state = .fault) :
    FailoverTurn l i x (failoverSlot l (n, x) i).2 ∧ ((failoverSlot l (n, x) i).2.lc l).state = .fault ∧
      (x.ringDrop l i = false → (failoverSlot l (n, x) i).1 = n) ∧
      (x.ringDrop l i = true → x.failsOver l i → (failoverSlot l (n, x) i).1 = { n with moved := n.moved + 1 }) ∧
      (x.ringDrop l i = true → ¬ x.failsOver l i → (failoverSlot l (n, x) i).1 = { n with stranded := n.stranded + 1 }) := by
  have hr : (decide ((x.drop i).currentLine = l) && (x.drop i).state.inRing) = x.ringDrop l i := by
    unfold State.ringDrop
    cases (x.drop i).state <;> simp [DropState.inRing] <;> rfl
  obtain ⟨ht1, ht2⟩ := failoverTarget_eq i hf
  cases hring : x.ringDrop l i with
  | false =>
    have e : failoverSlot l (n, x) i = (n, x) := by simp [failoverSlot, hr, hring]
    rw [e]
    exact ⟨⟨fun _ => rfl, fun h => by simp [hring] at h⟩, hf, fun _ => rfl, by simp, by simp⟩
  | true =>
    have hl : (x.drop i).currentLine = l := by
      have := hr.trans hring; simp at this; exact this.1
    by_cases hm : x.failsOver l i
    · have e : failoverSlot l (n, x) i =
          ({ n with moved := n.moved + 1 }, raiseDropState i (relocate i l.other (x.drop i).address x)) := by
        simp [failoverSlot, hr, hring, ht1 hm]
      obtain ⟨h1, h2, h3, h4, h5, h6⟩ := relocate_facts i l.other (x.drop i).address x
      rw [hl] at h3
      rw [e]
      refine ⟨⟨fun h => by simp [hring] at h, fun _ => ⟨h2, by simp [raiseDropState], by simp [raiseDropState],
        by simp [raiseDropState], by simp [raiseDropState, h4], ⟨fun j hj => ?_, fun m => ?_⟩, fun _ => ⟨h1, ?_⟩,
        fun hn => absurd hm hn⟩⟩, ?_, by simp, by simp, fun _ hn => absurd hm hn⟩
      · simp [raiseDropState, modSlot_slot_ne hj, h5 j hj]
      · simpa [raiseDropState] using h6 m
      · simpa [ChangedLine, raiseDropState] using h3
      · have := h3.2 l (ne_other l)
        simp [raiseDropState, this, hf]
    · have e : failoverSlot l (n, x) i =
          ({ n with stranded := n.stranded + 1 }, raiseDropState i (loseDrop i x)) := by
        simp [failoverSlot, hr, hring, ht2 hm]
      obtain ⟨h1, h2, h3, h4, h5, h6, h7⟩ := loseDrop_facts i x
      rw [hl] at h4
      rw [e]
      refine ⟨⟨fun h => by simp [hring] at h, fun _ => ⟨h3, by simp [raiseDropState], by simp [raiseDropState],
        by simp [raiseDropState], by simp [raiseDropState, h5], ⟨fun j hj => ?_, fun m => ?_⟩, fun hn => absurd hn hm,
        fun _ => ⟨h1, h2, ?_, ?_⟩⟩⟩, ?_, by simp, fun _ hn => absurd hn hm, by simp⟩
      · simp [raiseDropState, modSlot_slot_ne hj, h6 j hj]
      · simpa [raiseDropState] using h7 m
      · simp [raiseDropState, h4]
      · simp [raiseDropState, h4]
      · simp [raiseDropState, h4, hf]

/-- Failover of a line in FAULT, slot by slot, with the slots moved and stranded. -/
theorem failover_facts (l : Line) (s : State) (hf : (s.lc l).state = .fault) :
    ∃ (x : Nat → State) (moved stranded : List Slot), x 0 = s ∧ x 64 = (failover l s).2 ∧
      (∀ i : Slot, FailoverTurn l i (x i.val) (x (i.val + 1))) ∧ moved.Nodup ∧ stranded.Nodup ∧
      (∀ i : Slot, i ∈ moved ↔ (x i.val).ringDrop l i = true ∧ (x i.val).failsOver l i) ∧
      (∀ i : Slot, i ∈ stranded ↔ (x i.val).ringDrop l i = true ∧ ¬ (x i.val).failsOver l i) ∧
      (failover l s).1 = { moved := moved.length, stranded := stranded.length } := by
  classical
  obtain ⟨at', ha⟩ : ∃ f : Nat → Tally × State, ∀ k, f k =
      (allSlots.take k).foldl (failoverSlot l) ({ moved := 0, stranded := 0 }, s) := ⟨_, fun _ => rfl⟩
  have hlen : allSlots.length = 64 := by simp [allSlots]
  have hget : ∀ i : Slot, allSlots[i.val]'(by rw [hlen]; exact i.isLt) = i := fun i => by simp [allSlots]
  have hs : ∀ i : Slot, at' (i.val + 1) = failoverSlot l (at' i.val) i := fun i => by
    rw [ha, ha, ← List.take_concat_get' _ _ (by rw [hlen]; exact i.isLt), List.foldl_append, hget]; rfl
  have hfault : ∀ k, k ≤ 64 → ((at' k).2.lc l).state = .fault := by
    intro k
    induction k with
    | zero => intro _; rw [ha]; exact hf
    | succ k ih =>
      intro hk
      have := hs ⟨k, hk⟩
      rw [this]
      exact (failoverSlot_facts l (at' k).1 (at' k).2 ⟨k, hk⟩ (ih (by omega))).2.1
  let mv : Slot → Bool := fun i => decide ((at' i.val).2.ringDrop l i = true ∧ (at' i.val).2.failsOver l i)
  let st : Slot → Bool := fun i => decide ((at' i.val).2.ringDrop l i = true ∧ ¬ (at' i.val).2.failsOver l i)
  have hcount : ∀ k, k ≤ 64 → (at' k).1 =
      { moved := ((allSlots.take k).filter mv).length, stranded := ((allSlots.take k).filter st).length } := by
    intro k
    induction k with
    | zero => intro _; simp [ha]
    | succ k ih =>
      intro hk
      have h1 := hs ⟨k, hk⟩
      have h2 := failoverSlot_facts l (at' k).1 (at' k).2 ⟨k, hk⟩ (hfault k (by omega))
      have hg := hget ⟨k, hk⟩
      simp only at h1 hg
      rw [h1, ← List.take_concat_get' allSlots k (by rw [hlen]; exact hk), hg]
      simp only [List.filter_append, List.length_append]
      have hi := ih (by omega)
      obtain ⟨-, -, h3, h4, h5⟩ := h2
      show (failoverSlot l ((at' k).1, (at' k).2) ⟨k, hk⟩).1 = _
      cases hr : (at' k).2.ringDrop l ⟨k, hk⟩ with
      | false => rw [h3 hr, hi]; simp [mv, st, hr]
      | true =>
        by_cases hm : (at' k).2.failsOver l ⟨k, hk⟩
        · rw [h4 hr hm, hi]; simp [mv, st, hr, hm]
        · rw [h5 hr hm, hi]; simp [mv, st, hr, hm]
  have hall : at' 64 = failover l s := by
    rw [ha, List.take_of_length_le (by rw [hlen]), failover]
  have htally := hcount 64 (le_refl _)
  rw [hall, List.take_of_length_le (by rw [hlen])] at htally
  refine ⟨fun k => (at' k).2, allSlots.filter mv, allSlots.filter st, ?_, congrArg Prod.snd hall, fun i => ?_,
    (List.nodup_finRange 64).filter _, (List.nodup_finRange 64).filter _, fun i => ?_, fun i => ?_, htally⟩
  · show (at' 0).2 = s
    rw [ha]; rfl
  · dsimp only
    rw [hs i]
    exact (failoverSlot_facts l (at' i.val).1 (at' i.val).2 i (hfault _ (by omega))).1
  · simp [mv, allSlots]
  · simp [st, allSlots]

/-! ## Fault entry and the fault check (R149 to R155) -/

theorem dropDone_slot (bs : List Bcast) (s : State) (i : Slot) : (dropDone bs s).au.slot i = s.au.slot i := by
  simp only [dropDone]; split <;> rfl

theorem dropDone_line (bs : List Bcast) (s : State) (l : Line) : (dropDone bs s).au.line l = s.au.line l := by
  simp only [dropDone]; split <;> cases l <;> rfl

theorem dropDone_store (bs : List Bcast) (s : State) :
    (dropDone bs s).store.bcasts = bs.filter (fun b => !b.done) ∧
      (dropDone bs s).store.freeCells = s.store.freeCells ++ (bs.filter Bcast.done).map (fun b => b.cell.no) ∧
      (dropDone bs s).store.freeRecords = s.store.freeRecords ++ (bs.filter Bcast.done).map Bcast.recNo := by
  simp only [dropDone]
  split
  · rename_i h
    have : bs.filter Bcast.done = [] := by simpa using h
    simp [this]
  · exact ⟨rfl, rfl, rfl⟩

@[simp] theorem off_done (b : Bcast) (l : Line) : (b.off l).done = !b.on l.other := by
  cases l <;> simp [Bcast.off, Bcast.done, Bcast.on, Line.other]

@[simp] theorem off_cell (b : Bcast) (l : Line) : (b.off l).cell = b.cell := by cases l <;> rfl

@[simp] theorem off_recNo (b : Bcast) (l : Line) : (b.off l).recNo = b.recNo := by cases l <;> rfl

/-- The broadcast queue of a line discarded, in the words of the statements. -/
theorem discardBcasts_facts (l : Line) (s : State) : BcastsDiscarded l s (discardBcasts l s) := by
  obtain ⟨h1, h2, h3⟩ := dropDone_store (s.store.bcasts.map (fun x => x.off l)) s
  have hd : (Bcast.done ∘ fun x => x.off l) = fun b : Bcast => !b.on l.other := by funext b; simp
  have hd' : ((fun b : Bcast => !b.done) ∘ fun x => x.off l) = fun b : Bcast => b.on l.other := by funext b; simp
  refine ⟨?_, ?_, ?_, ?_, ?_⟩ <;> simp only [discardBcasts, raiseBcastDropped]
  · split <;> simp [h1, List.filter_map, hd']
  · split <;> simp [h2, List.filter_map, hd, Function.comp_def]
  · split <;> simp [h3, List.filter_map, hd, Function.comp_def]
  · split <;> simp [dropDone_line]
  · split <;> simp [dropDone_line]
    rfl

@[simp] theorem discardBcasts_slot (l : Line) (s : State) (j : Slot) : (discardBcasts l s).au.slot j = s.au.slot j := by
  simp only [discardBcasts, raiseBcastDropped]
  split <;> simp [dropDone_slot]

/-- A change of a line leaves its broadcast queue. -/
@[simp] theorem bcastsDiscarded_modLc (l m : Line) (f : LineCtl → LineCtl) (s t : State) :
    BcastsDiscarded l (s.modLc m f) t ↔ BcastsDiscarded l s t := by
  simp [BcastsDiscarded, State.bcastQueue]

/-- The start of fault entry, in the words of the statements. -/
theorem faultBegun_facts (l : Line) (s : State) :
    FaultBegun l s (discardBcasts l (s.modLc l (fun c => { c with state := .fault, deferred := .clear, urgent := [] }))) :=
  ⟨by simp, by simp, fun j => by simp, by simp, by simp, fun j => by simp,
    (bcastsDiscarded_modLc l l _ s _).mp (discardBcasts_facts l _)⟩

/-- The answer to a LINE_STOP, if one is outstanding. -/
theorem answerStop_facts (l : Line) (code : ReplyCode) (s : State) :
    (answerStop l code s).lc l = { s.lc l with stopTag := none } ∧ (answerStop l code s).lc l.other = s.lc l.other ∧
      (answerStop l code s).hli = (match (s.lc l).stopTag with
        | none => s.hli
        | some st => s.hli.posted (replyOf st 0xB2#8 [code.byte])) := by
  cases h : (s.lc l).stopTag with
  | none =>
    simp only [answerStop, h]
    refine ⟨?_, trivial, trivial⟩
    cases hc : s.lc l; simp_all
  | some st =>
    simp only [answerStop, h]
    refine ⟨by simp, by simp, ?_⟩
    rw [post_hli, modLc_hli]; rfl

/-- Fault entry and failover, in the words of the statements. -/
theorem faultEntry_facts (l : Line) (s : State) : EntersFault l s (faultEntry l s) := by
  have hb := faultBegun_facts l s
  obtain ⟨x, moved, stranded, h0, h64, ht, hm, hs, him, his, hc⟩ := failover_facts l
    (discardBcasts l (s.modLc l (fun c => { c with state := .fault, deferred := .clear, urgent := [] }))) (by simp)
  refine ⟨x, moved, stranded, by rw [h0]; exact hb, ht, hm, hs, him, his, ?_⟩
  have e : faultEntry l s = answerStop l .aborted (raiseFailover l moved.length stranded.length (x 64)) := by
    rcases hp : failover l
      (discardBcasts l (s.modLc l (fun c => { c with state := .fault, deferred := .clear, urgent := [] }))) with ⟨n, w⟩
    rw [hp] at hc h64
    simp only [faultEntry, hp, h64]
    rw [show n = _ from hc]
  obtain ⟨h1, h2, h3⟩ := answerStop_facts l .aborted (raiseFailover l moved.length stranded.length (x 64))
  rw [e]
  dsimp only
  exact ⟨by simp [raiseFailover], by simp [raiseFailover], by simp [raiseFailover], h2.trans (by simp [raiseFailover]),
    h1.trans (by simp [raiseFailover]), h3.trans (by simp [raiseFailover]; rfl), by simp [raiseFailover]; rfl⟩

/-- The fault check on the count that Table 57 gives. -/
theorem faultCheck_split (l : Line) (atStart : DropState) (success void : Bool) (s : State) :
    let fails := failCountAfter (s.lc l).failCount atStart success void
    let counted := s.setLc l { s.lc l with failCount := fails }
    (fails < (s.lc l).cfg.faultThreshold.toNat → faultCheck l atStart success void s = counted) ∧
      ((s.lc l).cfg.faultThreshold.toNat ≤ fails → EntersFault l counted (faultCheck l atStart success void s)) := by
  intro fails counted
  refine ⟨fun h => ?_, fun h => ?_⟩
  · simp only [faultCheck, modLc_lc_same]
    rw [if_neg (Nat.not_le.mpr h)]; rfl
  · simp only [faultCheck, modLc_lc_same]
    rw [if_pos h]
    exact faultEntry_facts l _

/-- The consecutive-fail count and the fault check, in the words of the statements. -/
theorem faultCheck_facts (l : Line) (atStart : DropState) (o : Option Bool) (s : State) :
    FaultChecked l atStart o s (faultCheck l atStart (o.getD false) o.isNone s) := by
  have h := faultCheck_split l atStart (o.getD false) o.isNone s
  rcases o with _ | _ | _
  · exact h
  · have hc : failCountAfter (s.lc l).failCount atStart false false =
        (s.lc l).failCount + if atStart = .online ∨ atStart = .suspect then 1 else 0 := by
      cases atStart <;> simp [failCountAfter]
    simp only [Option.getD, Option.isNone, hc] at h
    exact h
  · exact h

/-! ## The reply (R118, R127 to R132) -/

/-- The fields of a drop that the inbound side of the store may change (R88 to R94). -/
def InboundOnly (d e : Drop) : Prop :=
  e = { d with inbox := e.inbox, nextInId := e.nextInId, partialMsg := e.partialMsg, errorTotal := e.errorTotal }

theorem InboundOnly.trans {d e f : Drop} (h : InboundOnly d e) (g : InboundOnly e f) : InboundOnly d f := by
  unfold InboundOnly at *; rw [g, h]

theorem joinInbox_only (i : Slot) (m : InMsg) (s : State) : InboundOnly (s.drop i) ((joinInbox i m s).drop i) := by
  unfold InboundOnly; rw [(joinInbox_facts i m s).1]

theorem cutOff_only (i : Slot) (s : State) : InboundOnly (s.drop i) ((cutOff i s).drop i) := by
  unfold InboundOnly; rw [(cutOff_facts i s).1]

theorem setPartial_only (i : Slot) (m : InMsg) (s : State) :
    InboundOnly (s.drop i) ((s.modDrop i (fun d => { d with partialMsg := some m })).drop i) := by
  unfold InboundOnly; simp

/-- A segment offered to the store changes the inbound side of its drop alone, and no other drop. -/
theorem offerSegment_only (i : Slot) (first last : Bool) (data : List Byte) (s : State) :
    InboundOnly (s.drop i) ((offerSegment i first last data s).2.drop i) := by
  simp only [offerSegment]
  split
  · refine (cutOff_only i s).trans ?_
    generalize cutOff i s = u
    simp only [offerFirst]
    split
    · split
      · rfl
      · dsimp only
        split
        · have := fun m => joinInbox_only i m (takeAway 1 1 u)
          simp only [takeAway_drop] at this
          exact this _
        · have := fun m => setPartial_only i m (takeAway 1 1 u)
          simp only [takeAway_drop] at this
          exact this _
    · rfl
  · split
    · simp only [offerContinuation]
      split
      · split
        · exact joinInbox_only ..
        · exact setPartial_only ..
      · split
        · rfl
        · split
          · have := fun m => joinInbox_only i m (takeAway 1 0 s)
            simp only [takeAway_drop] at this
            exact this _
          · have := fun m => setPartial_only i m (takeAway 1 0 s)
            simp only [takeAway_drop] at this
            exact this _
    · unfold InboundOnly; simp

/-- NEXT, in the words of the statements. -/
theorem takeNext_facts (i : Slot) (named : Option Delivered) (next : Bool) (s : State) :
    NextTaken i named next s (takeNext i named next s) := by
  unfold NextTaken
  dsimp only
  refine ⟨fun h => by simp [takeNext, h], fun h => ?_⟩
  have hb : (!(s.drop i).link.seqOut) = next := by cases next <;> cases hq : (s.drop i).link.seqOut <;> simp_all
  have e : takeNext i named next s = reportAcceptance i named
      (s.setDrop i { s.drop i with link := { (s.drop i).link with seqOut := next } }) := by
    simp only [takeNext, if_neg h, State.modLink, State.modDrop, hb]
  rw [e]
  cases named with
  | none => exact ⟨fun _ => rfl, fun n m rest hn => by cases hn⟩
  | some k =>
    simp only [reportAcceptance, acceptSegment, setDrop_drop_same]
    refine ⟨fun hno => ?_, fun n m rest hn hout hlock hid => ?_⟩
    · cases ho : (s.drop i).outbox with
      | nil => rfl
      | cons m rest =>
        rcases hno k m rest rfl ho with hl | hl <;> simp [hl]
    · cases hn
      simp only [hout, hlock, hid, Bool.true_and, decide_true, if_true]
      refine ⟨fun hseg => ?_, fun hseg => ?_⟩
      · rw [if_neg hseg]
        simp [State.modLink, State.modDrop, setDrop_setDrop_same]
      · rw [if_pos hseg]
        rw [setDrop_setDrop_same]
        generalize hd : ({ s.drop i with
          outbox := rest, headLock := false
          link := { (s.drop i).link with seqOut := next, segIndex := 0 } } : Drop) = d
        have hz : ∀ y : State, y = freeAll (m.chain.map Cell.no) [m.recNo] (s.setDrop i d) →
            y.drop i = d ∧ SameDropsBut i s y ∧ y.hli = s.hli ∧ y.retire = s.retire ∧ (∀ l, y.lc l = s.lc l) ∧
            y.store.freeCells = s.store.freeCells ++ m.chain.map Cell.no ∧
            y.store.freeRecords = s.store.freeRecords ++ [m.recNo] ∧ y.store.bcasts = s.store.bcasts ∧
            y.au.slot i = s.au.slot i ∧ SameAttnBut i s y := by
          rintro y rfl
          have ha := (freeAll_facts (m.chain.map Cell.no) [m.recNo] (s.setDrop i d)).2 i
          exact ⟨by simp, fun j hj => by simp [setDrop_drop_ne (Ne.symm hj)], by simp, by simp, by simp, rfl, rfl, rfl,
            ha.2, ha.1⟩
        obtain ⟨h1, h2, h3, h4, h5, h6, h7, h8, h9, h10⟩ := hz _ rfl
        simp only [chainNos, raiseOutboxLow]
        split <;> rename_i hc
        · refine ⟨by simp, by simpa [SameDropsBut] using h2, by simp, by simp, by simp,
            by simpa using h6, by simpa using h7, by simpa using h8, ⟨fun j hj => ?_, fun l => ?_⟩, ?_⟩
          · simpa [modSlot_slot_ne hj] using h10.1 j hj
          · simpa using h10.2 l
          · rw [modSlotAttn_au, modSlot_slot_same, h9]
            have := hc.1
            simp [hc.2]
            simp at this
            omega
        · refine ⟨h1, h2, h3, h4, h5, h6, h7, h8, h10, ?_⟩
          rw [h9]
          have : (decide ((s.drop i).outboxTrigger.toNat < (m :: rest).length) &&
              decide (rest.length ≤ (s.drop i).outboxTrigger.toNat)) = false := by
            rw [← Bool.decide_and]; exact decide_eq_false hc
          rw [this]
          simp

/-- A DATA segment, in the words of the statements. -/
theorem takeData_facts (i : Slot) (f : DropFrame) (s : State) (h : f.kind = .data) :
    DataTaken i f.seq f.first f.last f.payload s (takeData i f s) := by
  refine ⟨fun hn => by simp [takeData, hn], fun he => ⟨(offerSegment i f.first f.last f.payload s).1,
    (offerSegment i f.first f.last f.payload s).2, rfl, ?_⟩⟩
  have hl : ((offerSegment i f.first f.last f.payload s).2.drop i).link.expectedIn = f.seq := by
    rw [offerSegment_only i f.first f.last f.payload s]; exact he.symm
  simp only [takeData, h, he, and_self, if_true]
  split <;> simp_all [State.modLink, State.modDrop]

/-- MORE, in the words of the statements. -/
theorem takeMore_facts (l : Line) (i : Slot) (more : Bool) (s : State) : MoreTaken l i more s (takeMore l i more s) := by
  have hc : (s.drop i).inboundCount = (s.drop i).inbox.length + (if (s.drop i).partialMsg.isSome then 1 else 0) := rfl
  unfold MoreTaken
  dsimp only
  rw [← hc]
  by_cases h1 : more = true ∧ s.store.hold = false ∧ (s.drop i).inboundCount < (s.drop i).inboxLimit.toNat
  · have e : takeMore l i more s = s.setLc l ((s.lc l).urgentEnter i) := by simp [takeMore, h1, State.modLc]
    rw [e]
    unfold LineCtl.urgentEnter
    obtain ⟨h4, h5, h6⟩ := h1
    by_cases h2 : i ∈ (s.lc l).urgent
    · simp [h2, setLc_self]
    · by_cases h3 : (s.lc l).urgent.length < 8
      · have h7 : ¬ 8 ≤ (s.lc l).urgent.length := by omega
        simp [h2, h3, h4, h5, h6, h7, Config.urgentMax]
      · have h7 : 8 ≤ (s.lc l).urgent.length := by omega
        simp [h3, h7, Config.urgentMax, setLc_self]
  · have e : takeMore l i more s = s := by
      simp only [takeMore]
      rw [if_neg]
      simpa [and_assoc] using h1
    rw [e]
    exact ⟨fun h => absurd ⟨h.1, h.2.1, h.2.2.1⟩ h1, fun _ => rfl⟩

/-- A RESYNC_REQ, in the words of the statements. -/
theorem takeResyncReq_facts (i : Slot) (s : State) : ResyncReqTaken i s (takeResyncReq i s) := by
  obtain ⟨h1, h2, h3, h4, h5⟩ := cutOff_facts i (s.modDrop i needResync)
  refine ⟨?_, ?_, fun j hj => ?_, by simp, by simp, by simp, fun m => by simp [takeResyncReq], ?_, h5⟩
  · show (cutOff i _).drop i = _
    rw [h1]; simp [needResync]; exact ⟨rfl, rfl⟩
  · exact h2.of_eq (by simp [needResync]) (by simp [needResync]) (by simp [needResync]) (by simp [needResync]) rfl
  · rw [takeResyncReq, h3 j hj, modDrop_drop_ne (Ne.symm hj)]
  · rw [afterCut_of_eq (d := s.drop i) _ _ (by simp [needResync]) (by simp [needResync])] at h4
    exact h4

/-- The processing of a valid reply, in the words of the statements. -/
theorem processReply_facts (l : Line) (v : Visit) (f : DropFrame) (s : State) :
    ReplyProcessed l v f s (processReply l v f s) := by
  have hnext := takeNext_facts v.slot v.delivered f.next s
  have hmore := fun b => takeMore_facts l v.slot f.more b
  have hclear : ∀ a : State, clearSettle v.slot a = a.setDrop v.slot { a.drop v.slot with settleWait := false } := fun _ => rfl
  unfold ReplyProcessed processReply
  cases hk : f.kind with
  | resyncAck => rfl
  | resyncReq => exact takeResyncReq_facts v.slot s
  | data =>
    refine ⟨_, _, hnext, ?_, hmore _⟩
    rw [if_pos rfl, ← hclear]
    exact takeData_facts v.slot f _ hk
  | empty =>
    refine ⟨_, _, hnext, ?_, hmore _⟩
    rw [if_neg (by simp), ← hclear]
    simp [takeData, hk]
  | busy =>
    refine ⟨_, _, hnext, ?_, hmore _⟩
    rw [if_neg (by simp), ← hclear]
    simp [takeData, hk]

theorem acceptSegment_state (i : Slot) (n : Delivered) (s : State) :
    ((acceptSegment i n s).drop i).state = (s.drop i).state := by
  simp only [acceptSegment, raiseOutboxLow]
  (repeat' split) <;> simp [State.modLink]

/-- A valid reply changes no state of a drop. -/
theorem processReply_state (l : Line) (v : Visit) (f : DropFrame) (s : State) :
    ((processReply l v f s).drop v.slot).state = (s.drop v.slot).state := by
  have hn : ((takeNext v.slot v.delivered f.next s).drop v.slot).state = (s.drop v.slot).state := by
    simp only [takeNext, reportAcceptance]
    (repeat' split) <;> simp [acceptSegment_state, State.modLink]
  have hd : ∀ u : State, ((takeData v.slot f u).drop v.slot).state = (u.drop v.slot).state := by
    intro u
    have := offerSegment_only v.slot f.first f.last f.payload u
    simp only [takeData]
    (repeat' split) <;> first | rfl | (simp [State.modLink]; rw [this]) | rw [this]
  have hm : ∀ u : State, ((takeMore l v.slot f.more u).drop v.slot).state = (u.drop v.slot).state := by
    intro u
    simp only [takeMore]
    split <;> simp
  have hr := (takeResyncReq_facts v.slot s).1
  unfold processReply
  split
  · simp [takeResyncAck, State.modLink]
  · rw [hr]
  · rw [hm, hd]; simpa [clearSettle] using hn

/-! ## The end-of-visit act (R133, R135) -/

/-- The end of a visit to a drop that is not RETIRING, in the words of the statements. -/
theorem endVisit_live (l : Line) (v : Visit) (reply : Option DropFrame) (s : State) (h : (s.drop v.slot).state.live = true) :
    VisitClosed l v reply (takeReply l v reply s) (endVisit l v reply s) := by
  have hu : ((takeReply l v reply s).drop v.slot).state = (s.drop v.slot).state := by
    cases reply with
    | none => rfl
    | some f => exact processReply_state l v f s
  have h1 : (s.drop v.slot).state ≠ .retiring := fun x => by simp [x, DropState.live] at h
  have h2 : (s.drop v.slot).state ≠ .vacant := fun x => by simp [x, DropState.live] at h
  have hland : (requeueProbed l v.slot (takeReply l v reply s)).modLink v.slot (fun k => { k with inFlight := false }) =
      (takeReply l v reply s).landed l v.slot := by
    simp only [requeueProbed, State.landed, probeRequeue, State.modLink, State.modDrop, State.modLc]
    split <;> simp
  have hls : (((takeReply l v reply s).landed l v.slot).drop v.slot).state.live = true := by
    simp [State.landed, hu, h]
  have e : endVisit l v reply s = freeLine l v.origin (faultCheck l v.stateAtStart reply.isSome false
      (settlePendingMove v.slot (report v.slot (outcomeOf reply) ((takeReply l v reply s).landed l v.slot)))) := by
    simp [endVisit, closeLive, h, h1, h2, hland]
  rw [e]
  have hf : ∀ x, FaultChecked l v.stateAtStart (some reply.isSome) x (faultCheck l v.stateAtStart reply.isSome false x) :=
    fun x => faultCheck_facts l v.stateAtStart (some reply.isSome) x
  refine ⟨_, _, _, ?_, settlePendingMove_facts v.slot _, hf _, freeLine_facts l v.origin _⟩
  cases reply with
  | none => exact reportFailure_facts v.slot _ hls
  | some f =>
    have hk : report v.slot (outcomeOf (some f)) = reportSuccess v.slot (f.kind == .resyncAck) := by
      cases hf : f.kind <;> simp [outcomeOf, hf] <;> rfl
    rw [hk]
    exact reportSuccess_facts v.slot _ _ hls

/-- The end of a visit to a RETIRING drop, in the words of the statements. -/
theorem endVisit_retiring (l : Line) (v : Visit) (reply : Option DropFrame) (s : State)
    (h : (s.drop v.slot).state = .retiring) : RetiringVisitClosed l v s (endVisit l v reply s) := by
  have hfin : finishRetiringVisit v.slot (s.modLink v.slot (fun k => { k with inFlight := false })) =
      finishRetiringVisit v.slot s := by
    simp [finishRetiringVisit, toVacant, State.modLink, State.modDrop, setDrop_setDrop_same]
  have hvoid : ∀ x, faultCheck l v.stateAtStart reply.isSome true x = faultCheck l v.stateAtStart false true x :=
    fun x => by simp [faultCheck, failCountAfter]
  have e : endVisit l v reply s = freeLine l v.origin (faultCheck l v.stateAtStart false true
      (finishRetiringVisit v.slot s)) := by
    simp [endVisit, h, DropState.live, hfin, hvoid]
  rw [e]
  exact ⟨_, _, finishRetiringVisit_facts v.slot s, faultCheck_facts l v.stateAtStart none _, freeLine_facts l v.origin _⟩

/-- An attempt that fails with attempts left, and the last one (R125), in the words of the statements. -/
theorem attemptFailed_facts (l : Line) (v : Visit) (s : State) :
    let errors := BitVec.ofNat 16 (min 65535 ((s.drop v.slot).errorTotal.toNat + 1))
    let u := s.setDrop v.slot { s.drop v.slot with errorTotal := errors }
    (v.attempts < v.attemptLimit → attemptFailed l v s =
      u.setLc l { s.lc l with visit := some { v with phase := .gap }, receiver := .notWaiting }) ∧
    (v.attemptLimit ≤ v.attempts → (s.drop v.slot).state.live = true → VisitClosed l v none u (attemptFailed l v s)) ∧
    (v.attemptLimit ≤ v.attempts → (s.drop v.slot).state = .retiring →
      RetiringVisitClosed l v u (attemptFailed l v s)) := by
  intro errors u
  have hu : countError v.slot s = u := by
    have : satInc16 (s.drop v.slot).errorTotal = errors := by
      simp only [satInc16, errors]
      split
      · rename_i h; rw [h]; rfl
      · rename_i h
        have hlt := (s.drop v.slot).errorTotal.isLt
        have hne : (s.drop v.slot).errorTotal.toNat ≠ 65535 := fun x => h (BitVec.eq_of_toNat_eq (by simpa using x))
        apply BitVec.eq_of_toNat_eq
        simp
        omega
    simp [countError, State.modDrop, this, u]
  refine ⟨fun h => ?_, fun h hs => ?_, fun h hs => ?_⟩
  · simp [attemptFailed, h, hu, State.modLc, u]
  · have := endVisit_live l v none u (by simpa [u] using hs)
    simpa [attemptFailed, Nat.not_lt.mpr h, hu, takeReply] using this
  · have := endVisit_retiring l v none u (by simpa [u] using hs)
    simpa [attemptFailed, Nat.not_lt.mpr h, hu] using this
/-! ## Characters (R1, R16, R17) -/

/-- The statements' character without error is the one the part sends. -/
theorem cleanChar_eq (b : Byte) : cleanChar b = sentChar b := by
  simp [cleanChar, sentChar, evenParity]

/-- A character the part sends has even parity (R1). -/
theorem charParityError_sentChar (b : Byte) : charParityError (sentChar b) = false := by
  simp [charParityError, sentChar]

/-- A character without error is the one the part would send for its data. -/
theorem sentChar_of_clean (ch : FieldChar) (h1 : charParityError ch = false) (h2 : charStopError ch = false) :
    ch = sentChar ch.data := by
  cases ch with
  | mk d p st => simp_all [charParityError, charStopError, sentChar]

theorem replyFrame_append (l : Line) (xs ys : List FieldChar) (s : State) :
    replyFrame l (xs ++ ys) s = replyFrame l ys (replyFrame l xs s) := by simp [replyFrame]

/-- A reply that is not whole yet has no verdict (R17). -/
theorem judgeReply_prefix (sent : MasterKind) (addr c g : Byte) (k : DropKind) (payload : List Byte)
    (hk : dropKindOf c = some k) (ha : sent.allows k = true) (hg : segfGood k g = true) (hlen : segfLen g = payload.length)
    (n : Nat) (bs : List Byte) (hi lo : Byte) (hb : bs = addr :: c :: g :: payload ++ [hi, lo]) (hn : n < bs.length) :
    judgeReply sent addr (bs.take n) = .incomplete := by
  subst hb
  match n with
  | 0 => rfl
  | 1 => simp [judgeReply]
  | 2 => simp [judgeReply, hk, ha]
  | n + 3 =>
    simp at hn
    simp only [judgeReply, List.cons_append, List.take_succ_cons, hk, ha, hg, hlen]
    simp
    have : ∀ x : List Byte, x.length ≤ 1 → ∀ hi lo r, x ≠ hi :: lo :: r := by
      rintro x hx hi lo r rfl; simp at hx
    have hl : (((payload ++ [hi, lo]).take n).drop payload.length).length ≤ 1 := by simp; omega
    split
    · rename_i h; exact absurd h (this _ hl _ _ _)
    · rfl

/-- A whole reply with its CRC is valid, and is what its bytes say (R7, R17). -/
theorem judgeReply_whole (sent : MasterKind) (addr c g : Byte) (k : DropKind) (payload : List Byte)
    (hk : dropKindOf c = some k) (ha : sent.allows k = true) (hg : segfGood k g = true) (hlen : segfLen g = payload.length) :
    let body := addr :: c :: g :: payload
    judgeReply sent addr (body ++ [hiByte (crc16 body), loByte (crc16 body)]) =
      .valid { kind := k, seq := ctrlSeq c, next := ctrlNext c, more := ctrlThird c, first := segfFirst g,
               last := segfLast g, payload := payload } := by
  simp [judgeReply, hk, ha, hg, hlen, halfOf_hi_lo]

/-- A character without error inside an awaited reply is judged with the bytes before it (R17). -/
theorem fieldChar_inReply (l : Line) (v : Visit) (s : State) (got : List Byte) (b : Byte)
    (h2 : (s.lc l).visit = some v) (h3 : v.phase = .reply) (h4 : (s.lc l).receiver.bytes = some got)
    (h5 : (s.lc l).rxLow = false) (h6 : (s.lc l).bcastFrame = none) :
    fieldChar l (cleanChar b) s = match judgeReply v.kind v.address (got ++ [b]) with
      | .failure => attemptFailed l v s
      | .valid f => endVisit l v (some f) s
      | .incomplete => s.setLc l { s.lc l with receiver := .receiving (got ++ [b]) } := by
  rw [cleanChar_eq]
  have hs : charStopError (sentChar b) = false := rfl
  have hd : s.driving l = false := by simp [State.driving, h2, h3, h6]
  have hf : fieldChar l (sentChar b) s = takeReplyChar l v got (sentChar b) s := by
    simp [fieldChar, h5, noteStopError, hs, hd, h2, h4]
  rw [hf, takeReplyChar, charParityError_sentChar, hs]
  show (match judgeReply v.kind v.address (got ++ [b]) with | .failure => _ | .valid f => _ | .incomplete => _) = _
  cases judgeReply v.kind v.address (got ++ [b]) <;> rfl

/-- The characters of a reply up to any but its last stand in the receiver. -/
theorem replyFrame_prefix (l : Line) (v : Visit) (s : State) (h : s.awaits l v) (bs : List Byte)
    (hp : ∀ n, n ≤ bs.length → judgeReply v.kind v.address (bs.take n) = .incomplete) (n : Nat) (hn : n < bs.length) :
    replyFrame l ((bs.take (n + 1)).map cleanChar) s = s.setLc l { s.lc l with receiver := .receiving (bs.take (n + 1)) } := by
  obtain ⟨h1, h2, h3, h4, h5, h6⟩ := h
  induction n with
  | zero =>
    cases bs with
    | nil => simp at hn
    | cons b bs =>
      have := fieldChar_inReply l v s [] b h2 h3 (by simp [h4, Receiver.bytes]) h5 h6
      have hj := hp 1 (by simp)
      simp at hj
      simp [replyFrame, this, hj]
  | succ n ih =>
    rw [← List.take_concat_get' bs (n+1) hn, List.map_append, replyFrame_append, ih (by omega)]
    have := fieldChar_inReply l v (s.setLc l { s.lc l with receiver := .receiving (bs.take (n + 1)) }) (bs.take (n+1)) bs[n+1]
      (by simpa using h2) h3 (by simp [Receiver.bytes]) (by simpa using h5) (by simpa using h6)
    have hj := hp (n+2) (by omega)
    rw [← List.take_concat_get' bs (n+1) hn] at hj
    rw [hj] at this
    simp only [setLc_lc_same, setLc_setLc_same] at this
    exact this

end Sys2Proof.Machine
end

