-- ==== Sys2Proof/Laws/Inbox.lean ====
section
/-!
SUPPORT. Where a message of the inbound side stands after an act, in the words of the statements (R89, R90, R93, R94).
-/

namespace Sys2Proof.Machine

/-- A message that joins the inbox. -/
theorem joinInbox_stands (i : Slot) (m : InMsg) (s : State) : MessageStands i true m s (joinInbox i m s) := by
  obtain ⟨h1, h2, h3, h4⟩ := joinInbox_facts i m s
  exact ⟨h2, by simp, by simp, fun l => by simp, by simp, by simp, fun _ => ⟨by rw [h1], joinInbox_joined i m s⟩, h3, h4⟩

/-- A message that joins the inbox with LAST, and waits as the partial message without. -/
theorem settle_stands (i : Slot) (last : Bool) (m : InMsg) (s : State) : MessageStands i last m s
    (if last then joinInbox i m s else s.modDrop i (fun d => { d with partialMsg := some m })) := by
  cases last with
  | true => exact joinInbox_stands i m s
  | false =>
    exact ⟨fun j hj => by simp [modDrop_drop_ne (Ne.symm hj)], rfl, rfl, fun l => by simp, rfl, fun _ => by simp, by simp,
      rfl, fun _ _ => rfl, fun _ => rfl⟩

/-- An allocation before it makes no difference to where a message stands. -/
theorem stands_takeAway (i : Slot) (last : Bool) (m : InMsg) (a b : Nat) (s t : State)
    (h : MessageStands i last m (takeAway a b s) t) : MessageStands i last m s t := by
  obtain ⟨h1, h2, h3, h4, h5, h6, h7, h8, h9⟩ := h
  refine ⟨fun j hj => (h1 j hj).trans (by simp), h2.trans (by simp), h3.trans (by simp), fun l => (h4 l).trans (by simp),
    h5.trans (by simp [takeAway, evalPool]), ?_, ?_, ?_, h9⟩
  · simpa using h6
  · simpa using h7
  · have e1 : (takeAway a b s).au.slot i = s.au.slot i := rfl
    have e2 : (takeAway a b s).drop i = s.drop i := by simp
    rw [e1, e2] at h8
    exact h8

end Sys2Proof.Machine
end

