-- ==== Sys2Proof/Laws/LineReset.lean ====
section
/-!
SUPPORT. What LINE_RESET does, in the words of the statements: the cut, the visit that was cut off, and the end of the
act (R145, R146).
-/

namespace Sys2Proof.Machine

@[simp] theorem resetDrop_lc (l : Line) (s : State) (i : Slot) (m : Line) : (resetDrop l s i).lc m = s.lc m := by
  cases m <;> simp [State.lc]

/-- LINE_RESET's part for one drop: it stays as it was when it does not live on the line (R146). -/
theorem resetDrop_off (l : Line) (s : State) (i : Slot)
    (h : ¬ ((s.drop i).currentLine = l ∧ (s.drop i).state.live = true)) : resetDrop l s i = s := by
  have : ((decide ((s.drop i).currentLine = l) && (s.drop i).state.live)) = false := by
    by_cases h1 : (s.drop i).currentLine = l <;> simp_all
  simp [resetDrop, this]

theorem falls_iff (st : DropState) : st.falls = true ↔ st = .online ∨ st = .suspect := by
  simp [DropState.falls]

/-- LINE_RESET's part for one living drop of the line, over its shared operations (R146). -/
theorem resetDrop_eq (l : Line) (s : State) (i : Slot) (h1 : (s.drop i).currentLine = l)
    (h2 : (s.drop i).state.live = true) :
    resetDrop l s i = if (s.drop i).state.falls then raiseDropState i (cutOff i (s.modDrop i Drop.rejoin))
      else cutOff i (s.modDrop i Drop.rejoin) := by
  simp [resetDrop, h1, h2]

/-- LINE_RESET's part for one living drop of the line, in the words of the statements (R146). -/
theorem resetDrop_on (l : Line) (s : State) (i : Slot) (h1 : (s.drop i).currentLine = l)
    (h2 : (s.drop i).state.live = true) :
    DropReset (s.drop i) ((resetDrop l s i).drop i) ∧
      (resetDrop l s i).au.slot i = { (s.au.slot i).afterCut (s.drop i) ((resetDrop l s i).drop i) with
        dropState := (s.au.slot i).dropState || (s.drop i).state == .online || (s.drop i).state == .suspect } := by
  obtain ⟨c1, c2, _, c4, _⟩ := cutOff_facts i (s.modDrop i Drop.rejoin)
  rw [afterCut_of_eq (d := s.drop i) _ _ (by simp [Drop.rejoin]) (by simp [Drop.rejoin]), modDrop_au] at c4
  have e : (resetDrop l s i).drop i = (cutOff i (s.modDrop i Drop.rejoin)).drop i := by
    rw [resetDrop_eq l s i h1 h2]; split <;> simp [raiseDropState]
  refine ⟨⟨?_, ?_⟩, ?_⟩
  · rw [e, c1]
    simp only [modDrop_drop_same, Drop.rejoin, falls_iff]
    simp [resyncLink, LinkRecord.fresh, LinkRecord.cleared]
  · rw [e]
    exact c2.of_eq (by simp [Drop.rejoin]) (by simp [Drop.rejoin]) (by simp [Drop.rejoin]) (by simp [Drop.rejoin]) rfl
  · have hd : ∀ a : SlotAttn, (a.afterCut (s.drop i) ((cutOff i (s.modDrop i Drop.rejoin)).drop i)).dropState =
        a.dropState := fun a => by simp only [SlotAttn.afterCut, SlotAttn.gained]; split <;> rfl
    rw [e, resetDrop_eq l s i h1 h2, Bool.or_assoc, show ((s.drop i).state == .online || (s.drop i).state == .suspect) =
      (s.drop i).state.falls from rfl]
    split <;> rename_i h
    · simp [raiseDropState, h, c4]
    · rw [c4]
      simp only [Bool.not_eq_true] at h
      rw [h, Bool.or_false, ← hd (s.au.slot i)]

/-- LINE_RESET's part for one drop changes no other drop and no line of the Attention Unit. -/
theorem resetDrop_frame (l : Line) (s : State) (i : Slot) :
    SameDropsBut i s (resetDrop l s i) ∧ (∀ j, j ≠ i → (resetDrop l s i).au.slot j = s.au.slot j) ∧
      ∀ m, (resetDrop l s i).au.line m = s.au.line m := by
  by_cases h : (s.drop i).currentLine = l ∧ (s.drop i).state.live = true
  · obtain ⟨_, _, c3, _, c5, c6⟩ := cutOff_facts i (s.modDrop i Drop.rejoin)
    simp only [modDrop_au] at c5 c6
    rw [resetDrop_eq l s i h.1 h.2]
    refine ⟨fun j hj => ?_, fun j hj => ?_, fun m => ?_⟩ <;> split
    · simpa [raiseDropState, modDrop_drop_ne (Ne.symm hj)] using c3 j hj
    · simpa [modDrop_drop_ne (Ne.symm hj)] using c3 j hj
    · simpa [raiseDropState, modSlot_slot_ne hj] using c5 j hj
    · exact c5 j hj
    · simpa [raiseDropState] using c6 m
    · exact c6 m
  · rw [resetDrop_off l s i h]
    exact ⟨fun _ _ => rfl, fun _ _ => rfl, fun _ => rfl⟩

/-- LINE_RESET's part for several drops, each taken once. -/
theorem resetDrops_facts (l : Line) (is : List Slot) (hn : is.Nodup) : ∀ s : State,
    (∀ m, (is.foldl (resetDrop l) s).lc m = s.lc m) ∧ (∀ m, (is.foldl (resetDrop l) s).au.line m = s.au.line m) ∧
      (∀ i, i ∉ is ∨ ¬ ((s.drop i).currentLine = l ∧ (s.drop i).state.live = true) →
        (is.foldl (resetDrop l) s).drop i = s.drop i ∧ (is.foldl (resetDrop l) s).au.slot i = s.au.slot i) ∧
      ∀ i ∈ is, (s.drop i).currentLine = l → (s.drop i).state.live = true →
        DropReset (s.drop i) ((is.foldl (resetDrop l) s).drop i) ∧
          (is.foldl (resetDrop l) s).au.slot i =
            { (s.au.slot i).afterCut (s.drop i) ((is.foldl (resetDrop l) s).drop i) with
              dropState := (s.au.slot i).dropState || (s.drop i).state == .online || (s.drop i).state == .suspect } := by
  induction is with
  | nil => exact fun s => ⟨fun _ => rfl, fun _ => rfl, fun _ _ => ⟨rfl, rfl⟩, fun i h => absurd h (by simp)⟩
  | cons k is ih =>
    intro s
    obtain ⟨hk, hn⟩ := List.nodup_cons.mp hn
    obtain ⟨i1, i2, i3, i4⟩ := ih hn (resetDrop l s k)
    obtain ⟨f1, f2, f3⟩ := resetDrop_frame l s k
    simp only [List.foldl_cons]
    refine ⟨fun m => by rw [i1, resetDrop_lc], fun m => by rw [i2, f3], fun i h => ?_, fun i h h1 h2 => ?_⟩
    · by_cases e : i = k
      · subst e
        rcases h with h | h
        · simp at h
        · rw [resetDrop_off l s i h] at i3 ⊢
          exact i3 i (.inl hk)
      · have : i ∉ is ∨ ¬ (((resetDrop l s k).drop i).currentLine = l ∧ ((resetDrop l s k).drop i).state.live = true) := by
          rcases h with h | h
          · exact .inl (fun x => h (List.mem_cons_of_mem _ x))
          · rw [f1 i e]; exact .inr h
        obtain ⟨a, b⟩ := i3 i this
        exact ⟨a.trans (f1 i e), b.trans (f2 i e)⟩
    · by_cases e : i = k
      · subst e
        obtain ⟨a, b⟩ := i3 i (.inl hk)
        rw [a, b]
        exact resetDrop_on l s i h1 h2
      · have hm : i ∈ is := by simpa [e] using h
        have := i4 i hm (by rw [f1 i e]; exact h1) (by rw [f1 i e]; exact h2)
        rwa [f1 i e, f2 i e] at this

/-- The in-flight flag of the drop of a cut visit is clear, and nothing else of any drop has changed (R136). -/
theorem cutLine_drop (l : Line) (s : State) (i : Slot) :
    (cutLine l s).drop i = { s.drop i with link := { (s.drop i).link with
      inFlight := (s.drop i).link.inFlight && !((s.lc l).visit.any (fun v => v.slot == i)) } } := by
  cases h : (s.lc l).visit with
  | none => simp [cutLine, h]
  | some v =>
    by_cases e : v.slot = i
    · subst e; simp [cutLine, h, State.modLink]
    · have hne : (v.slot == i) = false := by simpa using e
      simp [cutLine, h, State.modLink, modDrop_drop_ne e, hne]

theorem cutLine_lc (l : Line) (s : State) :
    (cutLine l s).lc l = { s.lc l with visit := none, bcastFrame := none, receiver := .notWaiting } ∧
      (cutLine l s).lc l.other = s.lc l.other := by
  cases h : (s.lc l).visit <;> simp [cutLine, h, State.modLink]

/-- The drop of a visit that LINE_RESET cuts off, in the words of the statements. -/
theorem settleCut_facts (v : Option Visit) (s : State) : CutVisitSettled v s (settleCut v s) := by
  cases v with
  | none => rfl
  | some v =>
    simp only [CutVisitSettled, settleCut]
    split
    · exact finishRetiringVisit_facts v.slot s
    · exact settlePendingMove_facts v.slot s

/-- LINE_RESET up to its part 5. -/
def lineCutAct (l : Line) (s : State) : State :=
  allSlots.foldl (resetDrop l) (discardBcasts l ((cutLine l s).modLc l LineCtl.restart))

/-- LINE_RESET up to its part 5, in the words of the statements. -/
theorem lineCut_facts (l : Line) (s : State) : LineCut l s (lineCutAct l s) := by
  have hnd : allSlots.Nodup := List.nodup_finRange 64
  have hin : ∀ i : Slot, i ∈ allSlots := fun i => List.mem_finRange i
  obtain ⟨f1, f2, f3, f4⟩ := resetDrops_facts l allSlots hnd (discardBcasts l ((cutLine l s).modLc l LineCtl.restart))
  obtain ⟨_, _, f5, f6, f7, _, _⟩ := resetDrops_frame l allSlots (discardBcasts l ((cutLine l s).modLc l LineCtl.restart))
  obtain ⟨c1, c2⟩ := cutLine_lc l s
  have hd : ∀ i, (discardBcasts l ((cutLine l s).modLc l LineCtl.restart)).drop i = { s.drop i with
      link := { (s.drop i).link with
        inFlight := (s.drop i).link.inFlight && !((s.lc l).visit.any (fun v => v.slot == i)) } } := by
    intro i; simp [cutLine_drop]
  have hs : ∀ i, (discardBcasts l ((cutLine l s).modLc l LineCtl.restart)).au.slot i = s.au.slot i := by
    intro i; simp
  refine ⟨?_, ?_, f5.trans (by simp), f6.trans (by simp), ?_, fun i h => ?_, fun i h => ?_⟩
  · show (lineCutAct l s).lc l = _
    rw [lineCutAct, f1]
    simp [c1, LineCtl.restart]
  · show (lineCutAct l s).lc l.other = _
    rw [lineCutAct, f1]
    simp [c2]
  · have : BcastsDiscarded l s (discardBcasts l ((cutLine l s).modLc l LineCtl.restart)) := by
      have := discardBcasts_facts l ((cutLine l s).modLc l LineCtl.restart)
      rw [bcastsDiscarded_modLc] at this
      simpa [BcastsDiscarded, State.bcastQueue] using this
    obtain ⟨b1, b2, b3, b4, b5⟩ := this
    exact ⟨by rw [lineCutAct, f7]; exact b1, by rw [lineCutAct, f7]; exact b2, by rw [lineCutAct, f7]; exact b3,
      (f2 _).trans b4, (f2 _).trans b5⟩
  · have := f4 i (hin i) (by rw [hd]; exact h.1) (by rw [hd]; exact h.2)
    rw [hd, hs] at this
    exact ⟨⟨this.1.1, this.1.2.of_eq rfl rfl rfl rfl rfl⟩, this.2⟩
  · obtain ⟨a, b⟩ := f3 i (.inr (by rw [hd]; exact h))
    exact ⟨b.trans (hs i), a.trans (hd i)⟩

/-- LINE_RESET before its own reply, in the words of the statements. -/
theorem lineResetAct_facts (l : Line) (tag : Byte) (s : State) :
    ∃ u w, LineCut l s u ∧ CutVisitSettled (s.lc l).visit u w ∧
      LineDisabled l tag w (post tag .lineReset .ok [] (lineResetAct l s)) := by
  refine ⟨_, _, lineCut_facts l s, settleCut_facts (s.lc l).visit _, ?_⟩
  obtain ⟨a1, a2, a3⟩ := answerStop_facts l .aborted (settleCut (s.lc l).visit (lineCutAct l s))
  rw [post_eq]
  have e : lineResetAct l s = disableLine l (answerStop l .aborted (settleCut (s.lc l).visit (lineCutAct l s))) := rfl
  rw [e]
  refine ⟨?_, ?_, ?_, ?_, ?_, ?_, ?_⟩
  · simp [a3]; rfl
  · simp [disableLine, a1]
  · simp [disableLine, a2]
  · simp
  · simp
  · simp
  · simp [disableLine]

end Sys2Proof.Machine
end

