-- ==== Sys2Proof/Laws/Pool.lean ====
section
/-!
SUPPORT. What the operations on the free lists do to the store, and that each shared operation keeps the rule of the pool
marks and the hold state.
-/

namespace Sys2Proof.Machine

/-! ## What the operations on the free lists do -/

theorem evalPool_store (s : State) :
    (evalPool s).store =
      { s.store with hold := holdAfter s.store.hold s.store.freeCells.length s.store.holdMark s.store.resumeMark } := rfl

theorem freeAll_store (cells recs : List Nat) (s : State) :
    (freeAll cells recs s).store = { s.store with
      freeCells := s.store.freeCells ++ cells
      freeRecords := s.store.freeRecords ++ recs
      hold := holdAfter s.store.hold (s.store.freeCells.length + cells.length) s.store.holdMark s.store.resumeMark } := by
  simp -implicitDefEqProofs [freeAll, giveBack, evalPool_store]

theorem takeAway_store (cells recs : Nat) (s : State) :
    (takeAway cells recs s).store = { s.store with
      freeCells := s.store.freeCells.drop cells
      freeRecords := s.store.freeRecords.drop recs
      hold := holdAfter s.store.hold (s.store.freeCells.length - cells) s.store.holdMark s.store.resumeMark } := by
  simp -implicitDefEqProofs [takeAway, evalPool_store]

/-! ## The pool rule -/

/-- The pool rule, about the store alone. -/
def Store.poolGood (st : Store) : Prop := st.marksOrdered ∧ st.holdRule

theorem poolRule_iff (s : State) : PoolRule s ↔ s.store.poolGood := Iff.rfl

/-- The hold state after an evaluation follows the marks (R74). -/
theorem holdAfter_rule {hold : Bool} {free : Nat} {h r : Half} (lt : h.toNat < r.toNat) :
    (free ≤ h.toNat → holdAfter hold free h r = true) ∧ (r.toNat ≤ free → holdAfter hold free h r = false) := by
  unfold holdAfter
  constructor
  · intro a; simp [a]
  · intro a; simp [a, show ¬ free ≤ h.toNat by omega]

/-- An evaluation establishes the rule whenever the marks stand in order. -/
theorem evalPool_pool {s : State} (h : s.store.marksOrdered) : (evalPool s).store.poolGood :=
  ⟨h, holdAfter_rule h.1⟩

theorem freeAll_pool (cells recs : List Nat) {s : State} (h : s.store.poolGood) :
    (freeAll cells recs s).store.poolGood := evalPool_pool h.1

theorem takeAway_pool (cells recs : Nat) {s : State} (h : s.store.poolGood) :
    (takeAway cells recs s).store.poolGood := evalPool_pool h.1

/-- A change of the broadcasts alone keeps the rule. -/
theorem setBcasts_pool (bs : List Bcast) {st : Store} (h : st.poolGood) : Store.poolGood { st with bcasts := bs } := h

theorem dropDone_pool (bs : List Bcast) {s : State} (h : s.store.poolGood) : (dropDone bs s).store.poolGood := by
  simp only [dropDone]
  split
  · exact h
  · exact freeAll_pool _ _ h

theorem takeOff_pool (l : Line) (b : Bcast) {s : State} (h : s.store.poolGood) : (takeOff l b s).store.poolGood :=
  dropDone_pool _ h

theorem discardBcasts_pool (l : Line) {s : State} (h : s.store.poolGood) : (discardBcasts l s).store.poolGood := by
  simp -implicitDefEqProofs [discardBcasts, dropDone_pool, h]

theorem acceptSegment_pool (i : Slot) (n : Delivered) {s : State} (h : s.store.poolGood) :
    (acceptSegment i n s).store.poolGood := by
  simp only [acceptSegment]
  repeat' split
  all_goals simp -implicitDefEqProofs [freeAll_pool, h]

theorem offerFirst_pool (i : Slot) (last : Bool) (data : List Byte) {s : State} (h : s.store.poolGood) :
    (offerFirst i last data s).2.store.poolGood := by
  simp only [offerFirst]
  repeat' split
  all_goals simp -implicitDefEqProofs [takeAway_pool, h]

theorem offerContinuation_pool (i : Slot) (p : InMsg) (last : Bool) (data : List Byte) {s : State} (h : s.store.poolGood) :
    (offerContinuation i p last data s).2.store.poolGood := by
  simp only [offerContinuation]
  repeat' split
  all_goals simp -implicitDefEqProofs [takeAway_pool, h]

theorem offerSegment_pool (i : Slot) (first last : Bool) (data : List Byte) {s : State} (h : s.store.poolGood) :
    (offerSegment i first last data s).2.store.poolGood := by
  simp only [offerSegment]
  repeat' split
  all_goals simp -implicitDefEqProofs [offerFirst_pool, offerContinuation_pool, h]

theorem takeNext_pool (i : Slot) (n : Option Delivered) (b : Bool) {s : State} (h : s.store.poolGood) :
    (takeNext i n b s).store.poolGood := by
  simp only [takeNext, reportAcceptance]
  repeat' split
  all_goals simp -implicitDefEqProofs [acceptSegment_pool, h]

theorem takeData_pool (i : Slot) (f : DropFrame) {s : State} (h : s.store.poolGood) :
    (takeData i f s).store.poolGood := by
  have := offerSegment_pool i f.first f.last f.payload h
  simp only [takeData]
  repeat' split
  all_goals simp -implicitDefEqProofs [this, h]

theorem processReply_pool (l : Line) (v : Visit) (f : DropFrame) {s : State} (h : s.store.poolGood) :
    (processReply l v f s).store.poolGood := by
  simp only [processReply]
  split
  all_goals simp -implicitDefEqProofs [takeData_pool, takeNext_pool, h]

theorem takeReply_pool (l : Line) (v : Visit) (r : Option DropFrame) {s : State} (h : s.store.poolGood) :
    (takeReply l v r s).store.poolGood := by
  simp only [takeReply]
  split
  all_goals simp -implicitDefEqProofs [processReply_pool, h]

theorem closeLive_pool (l : Line) (v : Visit) (r : Option DropFrame) {s : State} (h : s.store.poolGood) :
    (closeLive l v r s).store.poolGood := by
  simp -implicitDefEqProofs [closeLive, takeReply_pool, h]

theorem beginRetiring_pool (i : Slot) {s : State} (h : s.store.poolGood) : (beginRetiring i s).store.poolGood := by
  simp -implicitDefEqProofs [beginRetiring, freeAll_pool, h]

theorem runRetire_pool (n : Nat) : ∀ {s : State}, s.store.poolGood → (runRetire n s).store.poolGood := by
  induction n with
  | zero => intro s h; exact h
  | succ n ih =>
    intro s h
    simp only [runRetire]
    repeat' split
    all_goals simp -implicitDefEqProofs [ih, beginRetiring_pool, h]

theorem finishRetiringVisit_pool (i : Slot) {s : State} (h : s.store.poolGood) :
    (finishRetiringVisit i s).store.poolGood := by
  simp only [finishRetiringVisit]
  repeat' split
  all_goals simp -implicitDefEqProofs [runRetire_pool, h]

theorem faultEntry_pool (l : Line) {s : State} (h : s.store.poolGood) : (faultEntry l s).store.poolGood := by
  simp -implicitDefEqProofs [faultEntry, discardBcasts_pool, h]

theorem faultCheck_pool (l : Line) (st : DropState) (a b : Bool) {s : State} (h : s.store.poolGood) :
    (faultCheck l st a b s).store.poolGood := by
  simp only [faultCheck]
  split
  all_goals simp -implicitDefEqProofs [faultEntry_pool, h]

theorem endVisit_pool (l : Line) (v : Visit) (r : Option DropFrame) {s : State} (h : s.store.poolGood) :
    (endVisit l v r s).store.poolGood := by
  simp only [endVisit, freeLine_store]
  apply faultCheck_pool
  repeat' split
  all_goals simp -implicitDefEqProofs [finishRetiringVisit_pool, closeLive_pool, h]

theorem attemptFailed_pool (l : Line) (v : Visit) {s : State} (h : s.store.poolGood) :
    (attemptFailed l v s).store.poolGood := by
  simp only [attemptFailed]
  split
  all_goals simp -implicitDefEqProofs [endVisit_pool, h]

theorem fieldChar_pool (l : Line) (ch : FieldChar) {s : State} (h : s.store.poolGood) :
    (fieldChar l ch s).store.poolGood := by
  simp only [fieldChar, takeReplyChar]
  repeat' split
  all_goals simp -implicitDefEqProofs [attemptFailed_pool, endVisit_pool, h]

theorem replyFrame_pool (l : Line) (chars : List FieldChar) : ∀ {s : State}, s.store.poolGood →
    (replyFrame l chars s).store.poolGood := by
  induction chars with
  | nil => intro s h; exact h
  | cons c cs ih => intro s h; exact ih (fieldChar_pool l c h)

theorem broadcastWindow_pool (l : Line) {s : State} (h : s.store.poolGood) : (broadcastWindow l s).store.poolGood := by
  simp only [broadcastWindow, openWindow]
  repeat' split
  all_goals simp -implicitDefEqProofs [takeOff_pool, h]

theorem resetDrops_store (l : Line) (is : List Slot) : ∀ s : State, (is.foldl (resetDrop l) s).store = s.store := by
  induction is with
  | nil => intro s; rfl
  | cons i is ih => intro s; simp [ih]

theorem settleCut_pool (v : Option Visit) {s : State} (h : s.store.poolGood) : (settleCut v s).store.poolGood := by
  simp only [settleCut]
  repeat' split
  all_goals simp -implicitDefEqProofs [finishRetiringVisit_pool, h]

theorem lineResetAct_pool (l : Line) {s : State} (h : s.store.poolGood) : (lineResetAct l s).store.poolGood := by
  simp -implicitDefEqProofs [lineResetAct, settleCut_pool, resetDrops_store, discardBcasts_pool, h]

theorem submit_pool (i : Slot) (u : Bool) (p : List Byte) {s : State} (h : s.store.poolGood) :
    (submit i u p s).store.poolGood := by
  have hh := takeAway_pool (cellsFor p.length) 1 (s := joinOutbox i (s.newOutMsg i u p) s) h
  simp only [submit, submitEntry]
  split
  · rw [modLc_store]; exact hh
  · exact hh

theorem releaseHead_pool (i : Slot) (m : InMsg) {s : State} (h : s.store.poolGood) :
    (releaseHead i m s).store.poolGood := by
  simp -implicitDefEqProofs [releaseHead, freeAll_pool, h]

theorem purge_pool (i : Slot) (a b : Bool) {s : State} (h : s.store.poolGood) : (purge i a b s).store.poolGood := by
  simp only [purge]
  repeat' split
  all_goals simp -implicitDefEqProofs [freeAll_pool, h]

theorem queueBroadcast_pool (a b : Bool) (t : Target) (p : List Byte) {s : State} (h : s.store.poolGood) :
    (queueBroadcast a b t p s).store.poolGood := by
  apply takeAway_pool
  exact h

theorem setMarks_pool {h r l : Half} (g : marksGood h r l = true) (s : State) : (setMarks h r l s).store.poolGood := by
  simp only [marksGood, Bool.and_eq_true, decide_eq_true_eq] at g
  exact evalPool_pool ⟨g.2, g.1.1.2, g.1.2⟩

end Sys2Proof.Machine
end

