-- ==== Sys2Proof/Laws/Reply.lean ====
section
/-!
SUPPORT. What a character of a reply does, in the words of the statements (R16, R17).
-/

namespace Sys2Proof.Machine

theorem hiByte_halfOf (hi lo : Byte) : hiByte (halfOf hi lo) = hi := by
  apply BitVec.eq_of_getLsbD_eq
  intro i h
  have : ¬ 8 + i < 8 := by omega
  simp only [hiByte, halfOf, BitVec.append_eq, BitVec.getLsbD_append, BitVec.getLsbD_extractLsb']
  simp [h, this]

theorem loByte_halfOf (hi lo : Byte) : loByte (halfOf hi lo) = lo := by
  apply BitVec.eq_of_getLsbD_eq
  intro i h
  simp only [loByte, halfOf, BitVec.append_eq, BitVec.getLsbD_append, BitVec.getLsbD_extractLsb']
  simp [h]

theorem holding_bytes (got : List Byte) : (Receiver.holding got).bytes = some got := by
  simp only [Receiver.holding]; split
  · rename_i h; rw [h]; rfl
  · rfl

/-- A reply that is awaited is one of which nothing was received. -/
theorem awaits_iff (s : State) (l : Line) (v : Visit) : s.awaits l v ↔ s.receives l v [] := Iff.rfl

/-- The kind test of R17 by the code of the kind. -/
theorem mayHear_eq (sent : MasterKind) (ctrl : Byte) :
    sent.mayHear ctrl = (match dropKindOf ctrl with
      | none => false
      | some k => sent.allows k) := by
  cases sent <;> revert ctrl <;> decide +kernel

/-- The length and flag tests of R17 by the code of the kind. -/
theorem segfAgrees_eq (ctrl segf : Byte) (k : DropKind) (h : dropKindOf ctrl = some k) :
    segfAgrees ctrl segf = segfGood k segf := by
  have hk : (ctrl.toNat / 16 = 8) ↔ k = .data := by
    revert h; unfold dropKindOf; split <;> rintro ⟨⟩ <;> simp_all
  have hz : ∀ g : Byte, (g == 0x00#8) = (!segfFirst g && !segfLast g && decide (segfLen g = 0)) := by decide +kernel
  unfold segfAgrees
  by_cases hd : k = .data
  · rw [if_pos (hk.mpr hd)]; subst hd; rfl
  · rw [if_neg (fun x => hd (hk.mp x)), hz]
    cases k <;> first | rfl | exact absurd rfl hd

/-- The verdict of R17 on the bytes of a reply when one more arrives. -/
theorem judgeReply_next (v : Visit) (got : List Byte) (b : Byte) (h : v.expects got) :
    (v.passes (got ++ [b]) = false → judgeReply v.kind v.address (got ++ [b]) = .failure) ∧
    (v.passes (got ++ [b]) = true → replyLength (got ++ [b]) ≠ some (got.length + 1) →
      judgeReply v.kind v.address (got ++ [b]) = .incomplete) ∧
    (v.passes (got ++ [b]) = true → replyLength (got ++ [b]) = some (got.length + 1) → ¬ crcCloses (got ++ [b]) →
      judgeReply v.kind v.address (got ++ [b]) = .failure) := by
  obtain ⟨h1, h2⟩ := h
  match got with
  | [] => 
    refine ⟨fun hp => ?_, fun hp _ => ?_, fun _ hl => by simp [replyLength] at hl⟩
    · simp [Visit.passes] at hp; simp [judgeReply, hp]
    · simp [Visit.passes] at hp; simp [judgeReply, hp]
  | [a] =>
    simp only [Visit.passes, beq_iff_eq] at h1
    subst h1
    refine ⟨fun hp => ?_, fun hp _ => ?_, fun _ hl => by simp [replyLength] at hl⟩
    · simp only [Visit.passes, List.cons_append, List.nil_append, beq_self_eq_true, Bool.true_and, mayHear_eq] at hp
      cases hk : dropKindOf b <;> simp_all [judgeReply]
    · simp only [Visit.passes, List.cons_append, List.nil_append, beq_self_eq_true, Bool.true_and, mayHear_eq] at hp
      cases hk : dropKindOf b <;> simp_all [judgeReply]
  | [a, c] =>
    simp only [Visit.passes, Bool.and_eq_true, beq_iff_eq, mayHear_eq] at h1
    obtain ⟨rfl, hc⟩ := h1
    cases hk : dropKindOf c with
    | none => simp [hk] at hc
    | some k =>
      simp only [hk] at hc
      have hs := segfAgrees_eq c b k hk
      refine ⟨fun hp => ?_, fun hp _ => ?_, fun _ hl => ?_⟩
      · simp [Visit.passes, mayHear_eq, hk, hc, hs] at hp; simp [judgeReply, hk, hc, hp]
      · simp [Visit.passes, mayHear_eq, hk, hc, hs] at hp; simp [judgeReply, hk, hc, hp]
      · simp [replyLength] at hl; omega
  | a :: c :: g :: rest =>
    simp only [Visit.passes, Bool.and_eq_true, beq_iff_eq, mayHear_eq] at h1
    obtain ⟨⟨rfl, hc⟩, hg⟩ := h1
    cases hk : dropKindOf c with
    | none => simp [hk] at hc
    | some k =>
      simp only [hk] at hc
      have hs := segfAgrees_eq c g k hk
      rw [hs] at hg
      have hlen := h2 (5 + g.toNat % 64) (by simp [replyLength])
      simp at hlen
      have hj : judgeReply v.kind v.address (v.address :: c :: g :: rest ++ [b]) =
          (match (rest ++ [b]).drop (segfLen g) with
          | hi :: lo :: _ =>
            if crc16 (v.address :: c :: g :: (rest ++ [b]).take (segfLen g)) = halfOf hi lo then
              .valid { kind := k, seq := ctrlSeq c, next := ctrlNext c, more := ctrlThird c, first := segfFirst g,
                       last := segfLast g, payload := (rest ++ [b]).take (segfLen g) }
            else .failure
          | _ => .incomplete) := by
        simp [judgeReply, hk, hc, hg] <;> rfl
      refine ⟨fun hp => ?_, fun hp hl => ?_, fun hp hl hcrc => ?_⟩
      · simp [Visit.passes, mayHear_eq, hk, hc, hs, hg] at hp
      · simp [replyLength] at hl
        rw [hj]
        have hx : ((rest ++ [b]).drop (segfLen g)).length ≤ 1 := by simp [segfLen]; omega
        split
        · rename_i e; rw [e] at hx; simp at hx
        · rfl
      · simp [replyLength] at hl
        rw [hj]
        have hx : ((rest ++ [b]).drop (segfLen g)).length = 2 := by simp [segfLen]; omega
        match hd : (rest ++ [b]).drop (segfLen g), hx with
        | [hi, lo], _ =>
          simp only
          split
          · rename_i e
            exfalso
            apply hcrc
            refine ⟨v.address :: c :: g :: (rest ++ [b]).take (segfLen g), ?_⟩
            rw [e, hiByte_halfOf, loByte_halfOf]
            simp only [List.cons_append, ← hd, List.take_append_drop]
          · rfl

/-! ## Characters of a reply -/

/-- A character that fails the attempt (R17). -/
theorem takeReplyChar_fails (l : Line) (v : Visit) (got : List Byte) (ch : FieldChar) (s : State) (he : v.expects got)
    (hf : v.failsAt got ch) : takeReplyChar l v got ch s = attemptFailed l v s := by
  unfold takeReplyChar
  split
  · rfl
  · rename_i hc
    have hclean : ch = cleanChar ch.data := by
      rw [cleanChar_eq]
      apply sentChar_of_clean <;> simp_all
    obtain ⟨j1, _, j3⟩ := judgeReply_next v got ch.data he
    have hj : judgeReply v.kind v.address (got ++ [ch.data]) = .failure := by
      rcases hf with h | h | ⟨h, h'⟩
      · exact absurd hclean h
      · exact j1 h
      · by_cases hp : v.passes (got ++ [ch.data]) = true
        · exact j3 hp h h'
        · exact j1 (by simpa using hp)
    simp [hj]

/-- A character that neither fails the attempt nor ends the reply (R16). -/
theorem takeReplyChar_goesOn (l : Line) (v : Visit) (got : List Byte) (ch : FieldChar) (s : State) (he : v.expects got)
    (hf : ¬ v.failsAt got ch) (hl : replyLength (got ++ [ch.data]) ≠ some (got.length + 1)) :
    takeReplyChar l v got ch s = s.setLc l { s.lc l with receiver := .receiving (got ++ [ch.data]) } := by
  simp only [Visit.failsAt, not_or] at hf
  obtain ⟨h1, h2, _⟩ := hf
  have hclean : ch = sentChar ch.data := by rw [← cleanChar_eq]; exact not_not.mp h1
  have hp : charParityError ch = false := by rw [hclean]; exact charParityError_sentChar _
  have hs : charStopError ch = false := by rw [hclean]; rfl
  obtain ⟨_, j2, _⟩ := judgeReply_next v got ch.data he
  have hj := j2 (by simpa using h2) hl
  simp [takeReplyChar, hp, hs, hj, State.modLc]

/-- A character that reaches the receiver of a visit is judged with the bytes before it. -/
theorem fieldChar_receives (l : Line) (v : Visit) (s : State) (got : List Byte) (ch : FieldChar) (h : s.receives l v got) :
    fieldChar l ch s = takeReplyChar l v got ch (s.heard l got ch) := by
  obtain ⟨h1, h2, h3, h4, h5, h6⟩ := h
  have hd : s.driving l = false := by simp [State.driving, h2, h3, h6]
  have hn : noteStopError l ch s = s.heard l got ch := by
    cases hst : ch.stop
    · simp [noteStopError, charStopError, hst, State.heard, State.modLc, ← h4]
    · simp only [noteStopError, charStopError, hst, State.heard, ← h4]
      cases l <;> rfl
  simp [fieldChar, h5, hd, h2, h4, holding_bytes, hn]

@[simp] theorem freeLine_receiver (l : Line) (o : Origin) (s : State) : ((freeLine l o s).lc l).receiver = .notWaiting := by
  obtain ⟨h1, h2⟩ := freeLine_facts l o s
  by_cases h : (s.lc l).state = .stopping
  · rw [h2 h]; simp
  · rw [h1 h]; simp

/-- An attempt failure leaves the receiver in NOT WAITING (Table 14). -/
theorem attemptFailed_receiver (l : Line) (v : Visit) (s : State) :
    ((attemptFailed l v s).lc l).receiver = .notWaiting := by
  simp only [attemptFailed]
  split
  · simp
  · simp [endVisit]

/-- A character without error that finds the receiver in NOT WAITING is discarded (R16). -/
theorem fieldChar_discarded (l : Line) (b : Byte) (s : State) (h : (s.lc l).receiver = .notWaiting) :
    fieldChar l (cleanChar b) s = s := by
  have hs : charStopError (cleanChar b) = false := rfl
  simp only [fieldChar, noteStopError, hs, h, Receiver.bytes]
  split
  · rfl
  · simp

theorem replyFrame_discarded (l : Line) (bs : List Byte) (s : State) (h : (s.lc l).receiver = .notWaiting) :
    replyFrame l (bs.map cleanChar) s = s := by
  induction bs with
  | nil => rfl
  | cons b bs ih =>
    have : replyFrame l ((b :: bs).map cleanChar) s = replyFrame l (bs.map cleanChar) (fieldChar l (cleanChar b) s) := rfl
    rw [this, fieldChar_discarded l b s h, ih]

/-- The tests that the bytes of a reply have passed were passed by those before the last. -/
theorem expects_append (v : Visit) (got : List Byte) (b : Byte) (h : v.expects (got ++ [b])) :
    v.expects got ∧ ¬ v.failsAt got (cleanChar b) ∧ replyLength (got ++ [b]) ≠ some (got.length + 1) := by
  obtain ⟨h1, h2⟩ := h
  have hl : replyLength (got ++ [b]) ≠ some (got.length + 1) := fun e => by have := h2 _ e; simp at this
  refine ⟨⟨?_, fun n hn => ?_⟩, ?_, hl⟩
  · match got with
    | [] => rfl
    | [a] => simp_all [Visit.passes]
    | [a, c] => simp_all [Visit.passes]
    | a :: c :: g :: rest => simpa [Visit.passes] using h1
  · match got with
    | [] => simp [replyLength] at hn
    | [a] => simp [replyLength] at hn
    | [a, c] => simp [replyLength] at hn
    | a :: c :: g :: rest =>
      have := h2 n (by simpa [replyLength] using hn)
      simp at this ⊢; omega
  · rintro (h | h | h)
    · exact h rfl
    · rw [show (cleanChar b).data = b from rfl, h1] at h; cases h
    · exact hl h.1

/-- The bytes of a reply that pass their tests stand in the receiver. -/
theorem replyFrame_received (l : Line) (v : Visit) (s : State) (h : s.awaits l v) (got : List Byte) (he : v.expects got) :
    replyFrame l (got.map cleanChar) s = s.setLc l { s.lc l with receiver := .holding got } := by
  induction got using List.reverseRecOn with
  | nil =>
    have : (s.lc l).receiver = .holding [] := h.2.2.2.1
    simp only [replyFrame, List.map_nil, List.foldl_nil, ← this]
    cases l <;> rfl
  | append_singleton got b ih =>
    obtain ⟨e1, e2, e3⟩ := expects_append v got b he
    rw [List.map_append, replyFrame_append, ih e1]
    obtain ⟨h1, h2, h3, h4, h5, h6⟩ := h
    have hr : (s.setLc l { s.lc l with receiver := .holding got }).receives l v got :=
      ⟨by simpa using h1, by simpa using h2, h3, by simp, by simpa using h5, by simpa using h6⟩
    have : replyFrame l ([b].map cleanChar) (s.setLc l { s.lc l with receiver := .holding got }) =
        fieldChar l (cleanChar b) (s.setLc l { s.lc l with receiver := .holding got }) := rfl
    rw [this, fieldChar_receives l v _ got _ hr, takeReplyChar_goesOn l v got _ _ e1 e2 e3]
    have hst : (cleanChar b).stop = true := rfl
    simp [State.heard, hst, Receiver.holding, setLc_setLc_same]
    rfl

/-- A reply that fails at one of its characters, whatever follows it (R16, R17). -/
theorem replyFrame_fails (l : Line) (v : Visit) (s : State) (h : s.awaits l v) (got rest : List Byte) (ch : FieldChar)
    (he : v.expects got) (hf : v.failsAt got ch) :
    replyFrame l (got.map cleanChar ++ ch :: rest.map cleanChar) s = attemptFailed l v (s.heard l got ch) := by
  rw [replyFrame_append, replyFrame_received l v s h got he]
  obtain ⟨h1, h2, h3, h4, h5, h6⟩ := h
  have hr : (s.setLc l { s.lc l with receiver := .holding got }).receives l v got :=
    ⟨by simpa using h1, by simpa using h2, h3, by simp, by simpa using h5, by simpa using h6⟩
  have : ∀ x, replyFrame l (ch :: rest.map cleanChar) x = replyFrame l (rest.map cleanChar) (fieldChar l ch x) :=
    fun _ => rfl
  rw [this, fieldChar_receives l v _ got ch hr, takeReplyChar_fails l v got ch _ he hf,
    replyFrame_discarded _ _ _ (attemptFailed_receiver l v _)]
  simp [State.heard, setLc_setLc_same]

end Sys2Proof.Machine
end

