-- ==== Sys2Proof/Tests/Slice0.lean ====
section
/-!
SUPPORT. Tests of the model: the check on operands, one step of the commands on small states, and states and operands
that meet the hypotheses of each statement.
-/

namespace Sys2Proof.Tests

set_option Elab.async false

open Sys2Proof Sys2Proof.Machine

/-! ## Small states -/

/-- The state a command leaves. -/
def after (c : Instr) (s : State) : State :=
  match exec c s with
  | .next t => t
  | .fault _ => s
  | .refused _ => s

theorem exec_after (c : Instr) (s : State) : exec c s = .next (after c s) := by cases c <;> rfl

/-- An ONLINE drop at address 5 of line A. -/
def drop5 : Drop :=
  { Drop.vacant 7 with
    state := .online, address := 5, alternate := some .b, cls := 1, retryLimit := 1, replyTimeout := 20, inboxLimit := 4
    inboxTrigger := 2, outboxLimit := 4, outboxTrigger := 1, maxInbound := 64 }

/-- Slot 3 holds a drop on the running line A; line B runs empty. -/
def withDrop (d : Drop) : State :=
  ((State.reset.setDrop 3 d).setLc .a
      { LineCtl.reset with state := .running, ring := [{ slot := 3, due := true }] }).setLc .b
    { LineCtl.reset with state := .running }

/-- See `withDrop`. -/
def base : State := withDrop drop5

/-- Line A of a state changed. -/
def lineA (f : LineCtl → LineCtl) (s : State) : State := s.modLc .a f

/-- The host link of a state changed. -/
def link (f : Hli → Hli) (s : State) : State := s.setHli (f s.hli)

/-- The store of a state changed. -/
def stored (f : Store → Store) (s : State) : State := s.setStore (f s.store)

/-- A message of two segments, the second of one byte. -/
def twoSegments : OutMsg :=
  { recNo := 0, id := 4, chain := [{ no := 0, data := List.replicate 32 0xAA#8 }, { no := 1, data := [0x55#8] }],
    urgent := false }

/-- A complete inbound message. -/
def inbound : InMsg :=
  { recNo := 1, id := some 0#8, chain := [{ no := 2, data := [0x01#8] }], status := .intact, alertMark := false,
    fetched := true, segCount := 1 }

/-- A partial inbound message of one segment. -/
def opening : InMsg :=
  { recNo := 1, id := none, chain := [{ no := 2, data := [0x01#8] }], status := .intact, alertMark := false,
    fetched := false, segCount := 1 }

/-- A visit to slot 3. -/
def visit3 (kind : MasterKind) (delivered : Option Delivered) (attempts : Nat) (phase : VisitPhase) : Visit :=
  { slot := 3, origin := .ring, stateAtStart := .online, frame := [], kind := kind, address := 5, delivered := delivered,
    attemptLimit := 2, replyTimeout := 20, attempts := attempts, phase := phase }

/-- Slot 3 in flight on line A. -/
def visiting (d : Drop) (v : Visit) (r : Receiver) : State :=
  lineA (fun c => { c with visit := some v, receiver := r }) (withDrop { d with link := { d.link with inFlight := true } })

/-- One outstanding request with a tag. -/
def oneOut (tag : Byte) (p : ReqPhase) : Outstanding := { tag := tag, kind := 0x14#8, phase := p }

/-- A record on its way to the host. -/
def record (tag : Byte) (o : RecordOrigin) : OutRecord := { tag := tag, kind := 0x94#8, body := [0x00#8], origin := o }

/-! ## The check on operands: a term that it refuses, for each of its checks -/

theorem test_wellFormed_refuses_tag_zero : (Instr.deviceInfo 0x00#8 []).wellFormed = false := by decide +kernel
theorem test_wellFormed_refuses_long_body :
    (Instr.msgSubmit 0x01#8 (List.replicate 249 0#8)).wellFormed = false := by decide +kernel
theorem test_wellFormed_takes_longest_body :
    (Instr.msgSubmit 0x01#8 (List.replicate 248 0#8)).wellFormed = true := by decide +kernel
theorem test_wellFormed_refuses_good_record_as_rejection :
    (Instr.rejection (recordBytes 0x01#8 0x01#8 [])).wellFormed = false := by decide +kernel
theorem test_wellFormed_refuses_unfinished_rejection :
    (Instr.rejection [0xA5#8, 0x02#8]).wellFormed = false := by decide +kernel
theorem test_wellFormed_refuses_gap_outside_a_record :
    (Instr.interByteGapExpiry [0x00#8]).wellFormed = false := by decide +kernel
theorem test_wellFormed_refuses_whole_record_as_partial :
    (Instr.hostStopBitError (recordBytes 0x01#8 0x01#8 [])).wellFormed = false ∧
      (Instr.hostLinkBreak (recordBytes 0x01#8 0x01#8 [])).wellFormed = false := by decide +kernel
theorem test_wellFormed_refuses_empty_reply : (Instr.replyFrameReceived .a []).wellFormed = false := by decide +kernel
theorem test_wellFormed_refuses_long_reply :
    (Instr.replyFrameReceived .a (List.replicate 38 (cleanChar 0#8))).wellFormed = false := by decide +kernel

/-! ## One step of a command -/

theorem test_step_takes_the_front :
    step { State.reset with pending := [.hrdyDeasserted, .hrxdReturnsHigh] } =
      .next { State.reset with pending := [.hrxdReturnsHigh] } := rfl

/-- With HRDY asserted after a reset, the RESTARTED notice starts (R167, R172). -/
theorem test_restarted_notice_is_first :
    (after .hrdyAsserted State.reset).hli.tx =
      some { tag := 0x00#8, kind := 0xF0#8, body := [0x01#8, 0xFF#8, 0x01#8], origin := .notice } := by decide +kernel

/-- The example of R159 and R161: a record with a bad CRC is answered through the immediate-reply slot. -/
theorem test_bad_crc_is_answered :
    (after (.rejection [0xA5#8, 0x02#8, 0x07#8, 0x01#8, 0x00#8, 0x00#8]) State.reset).hli.ready =
      [{ tag := 0x07#8, kind := 0xFF#8, body := [0x15#8], origin := .immediate }] := by decide +kernel

/-- The characters of a record on HTXD: start byte A5h first, each with a low start bit, its bits from the least significant
and a high stop bit; nothing while RESETN is held low (R156, R167). -/
theorem test_htxd_sends_the_record :
    let s := link (fun h => { h with tx := some (record 1#8 .request) }) State.reset
    s.htxd.take 10 = [false, true, false, true, false, false, true, false, true, true] ∧ s.htxd.length = 70 ∧
      State.reset.htxd = [] ∧ (link (fun h => { h with inReset := true }) s).htxd = [] := by decide +kernel

theorem test_submit_takes_two_cells :
    let t := after (.msgSubmit 0x09#8 (0x03#8 :: 0x07#8 :: 0x00#8 :: List.replicate 33 0xAA#8)) base
    (t.drop 3).outbox.map (fun m => m.chain.map (fun c => (c.no, c.data.length))) = [[(0, 32), (1, 1)]] ∧ t.store.freeCells.length = 510 ∧
      t.store.freeRecords.length = 255 ∧ t.hli.ready.map OutRecord.body = [[0x00#8, 0x00#8]] := by decide +kernel

theorem test_due_entry_is_visited :
    let t := after (.visitStart .a) base
    (t.lc .a).visit.map (fun v => (v.slot, v.origin, v.kind)) = some (3, .ring, .poll) ∧ (t.lc .a).cursor = 1 ∧
      (t.drop 3).link.inFlight = true := by decide +kernel

/-- A round of line B with period 20 ends. A round of line A with period 10 that began before it has then lasted longer than
its period; one that began after it need not have, and its idle period goes on with urgent visits (R112, log 3). -/
theorem test_round_periods_are_per_line :
    let s := fun (startA startB : Nat) => (lineA (fun c => { c with
        phase := .idle, urgent := [3], idleServed := true, roundStart := startA
        cfg := { c.cfg with roundPeriod := 10 } }) base).modLc .b (fun c => { c with
      phase := .idle, roundStart := startB, cfg := { c.cfg with roundPeriod := 20 } })
    let t := fun (startA startB : Nat) => after (.roundPeriodElapsed .b) (s startA startB)
    ((t 2 1).lc .b).roundNumber = 1 ∧ ((after (.visitStart .a) (t 2 1)).lc .a).visit.isSome = true ∧
      ((t 1 2).lc .b).roundNumber = 1 ∧ ((t 1 2).lc .a).roundElapsed = 20 ∧
      after (.visitStart .a) (t 1 2) = t 1 2 := by decide +kernel

/-- In the idle period a further urgent visit starts only while the round period lasts, and the first one always; the next
round then begins (R112). -/
theorem test_idle_period_ends :
    let s := fun (served : Bool) (period : Byte) => lineA (fun c => { c with
      phase := .idle, urgent := [3], idleServed := served, cfg := { c.cfg with roundPeriod := period } }) base
    after (.visitStart .a) (s true 0) = s true 0 ∧ ((after (.visitStart .a) (s true 1)).lc .a).visit.isSome = true ∧
      ((after (.visitStart .a) (s false 0)).lc .a).visit.isSome = true ∧
      ((after (.roundPeriodElapsed .a) (s true 0)).lc .a).roundNumber = 1 := by decide +kernel

theorem test_resync_frame_carries_the_groups :
    ((withDrop { drop5 with groups := 0x0A#8, link := .fresh }).buildFrame 3).bytes.take 4 =
      [0x05#8, 0x30#8, 0x01#8, 0x0A#8] := by decide +kernel

/-- The characters of a frame carry even parity and a high stop bit while the driver enable is high (R1, R124): the bytes
05h and 10h of a POLL, of two ones and of one. -/
theorem test_sent_characters_have_even_parity :
    let t := after (.turnaroundGapElapsed .a) (after (.visitStart .a) base)
    t.driving .a = true ∧
      (t.sending .a).take 2 =
        [{ data := 0x05#8, parity := false, stop := true }, { data := 0x10#8, parity := true, stop := true }] ∧
      (t.sending .a).all (fun ch => !charParityError ch && !charStopError ch) = true ∧
      (after (.frameSent .a) t).sending .a = [] := by decide +kernel

/-- The reset after the OK of a DEVICE_RESTART takes the strap levels of that moment, and the one after it the next
(R156, R167, log 12). -/
theorem test_restart_samples_the_straps :
    let s := link (fun h => { h with tx := some (record 1#8 .restart) }) State.reset
    let t := after .recordTransmissionEnd s
    t.hli.straps = s.hli.strapsNow ∧ t.hli.hostRate = s.hli.strapsNow ∧ t.hli.strapReads = 1 ∧ t.hli.tx = none :=
  ⟨rfl, rfl, rfl, rfl⟩

theorem test_third_miss_loses_the_drop :
    let t := after (.replyTimeout .a) (visiting { drop5 with missCount := 2, state := .suspect } (visit3 .poll none 2 .reply)
      .awaitingReply)
    (t.drop 3).state = .lost ∧ (t.lc .a).ring = [] ∧ (t.lc .a).probeList = [3] ∧ (t.drop 3).link.resyncNeeded = true ∧
      (t.lc .a).failCount = 1 := by decide +kernel

theorem test_fault_fails_over_to_line_b :
    let t := after (.replyTimeout .a) (lineA (fun c => { c with failCount := 7 })
      (visiting drop5 (visit3 .poll none 2 .reply) .awaitingReply))
    (t.lc .a).state = .fault ∧ (t.drop 3).currentLine = .b ∧ (t.drop 3).state = .joining ∧
      (t.lc .b).ring.map RingEntry.slot = [3] ∧ (t.au.line .a).moved = 1 := by decide +kernel

theorem test_retire_empties_the_slot :
    let t := after (.dropRetire 0x02#8 [0x03#8, 0x01#8]) base
    t.drop 3 = Drop.vacant 7 ∧ (t.lc .a).ring = [] ∧ t.hli.ready.map OutRecord.body = [[0x00#8, 0x01#8]] := by
  decide +kernel

theorem test_move_appends_to_the_target_ring :
    let t := after (.dropMove 0x02#8 [0x03#8, 0x07#8, 0x01#8, 0x09#8, 0x02#8]) base
    (t.drop 3).currentLine = .b ∧ (t.drop 3).homeLine = .b ∧ (t.drop 3).alternate = some .a ∧ (t.drop 3).address = 9 ∧
      (t.lc .a).ring = [] ∧ (t.lc .b).ring.map RingEntry.slot = [3] := by decide +kernel

/-- The broadcast frame of R102 and the freeing of its cell and record at its one line (R70). -/
theorem test_broadcast_is_taken_and_freed :
    let s := lineA (fun c => { c with ring := [] }) (after (.msgBroadcast 0x02#8 [0x01#8, 0xFF#8, 0x42#8]) base)
    let t := after (.broadcastWindow .a) s
    (t.lc .a).bcastFrame.map (fun f => (f.chars.map FieldChar.data).take 4) = some [0xFF#8, 0x40#8, 0xC1#8, 0x42#8] ∧ t.store.bcasts = [] ∧
      t.store.freeCells.length = 512 ∧ t.store.freeRecords.length = 256 := by decide +kernel

/-- The last two rows of Table 50: one DATA reply with NEXT and MORE frees the delivered message, opens an inbound one and
enters the drop in the urgent queue. -/
theorem test_data_reply_of_table_50 :
    let d := { drop5 with outbox := [twoSegments], headLock := true, link := { drop5.link with seqOut := true, segIndex := 1 } }
    let body := 0x05#8 :: 0x82#8 :: 0xA0#8 :: List.replicate 32 0x11#8
    let t := after (.replyFrameReceived .a ((body ++ [hiByte (crc16 body), loByte (crc16 body)]).map cleanChar))
      (visiting d (visit3 .deliver (some { id := 4, seg := 1 }) 1 .reply) .awaitingReply)
    (t.drop 3).outbox = [] ∧ (t.drop 3).headLock = false ∧
      (t.drop 3).link = { resyncNeeded := false, seqOut := false, expectedIn := true, inFlight := false, segIndex := 0 } ∧
      (t.drop 3).partialMsg.map InMsg.length = some 32 ∧ (t.lc .a).urgent = [3] ∧ (t.lc .a).visit = none := by decide +kernel

/-- A retire operation that was cancelled ends PARTIAL after the visit it waited for, with the OK to its CANCEL (R60). -/
theorem test_cancelled_retire_ends_partial :
    let s := after (.cancel 0x02#8 [0x01#8]) (after (.dropRetire 0x01#8 [0x03#8, 0x05#8])
      (visiting drop5 (visit3 .poll none 2 .reply) .awaitingReply))
    let t := after (.replyTimeout .a) s
    (s.drop 3).state = .retiring ∧ t.drop 3 = Drop.vacant 7 ∧ t.retire = none ∧
      t.hli.ready.map (fun r => (r.tag, r.body)) =
        [(0x01#8, [0x02#8, 0x01#8, 0x04#8, 0x04#8]), (0x02#8, [0x00#8])] := by decide +kernel

/-- Slots 1 and 4 hold idle drops, slots 3 and 5 drops in flight; slots 0 and 2 are VACANT. -/
def mixedRange : State :=
  (((visiting drop5 (visit3 .poll none 2 .reply) .awaitingReply).setDrop 1 { drop5 with address := 6 }).setDrop 4
    { drop5 with address := 8 }).setDrop 5 { drop5 with address := 9, link := { drop5.link with inFlight := true } }

/-- The range from slot 0: the operation waits at slot 3 with 3 slots completed; when the visit there has ended it goes on,
and waits at slot 5 with 5 completed (R55, R57). -/
theorem test_retire_waits_and_goes_on :
    let s := after (.dropRetire 0x01#8 [0x00#8, 0x08#8]) mixedRange
    let t := after (.replyTimeout .a) s
    let op := fun n => some { tag := 1#8, first := 0, count := 8, next := n, completed := n, cancelTag := none }
    s.retire = op 3 ∧ s.drop 1 = Drop.vacant 7 ∧ (s.drop 3).state = .retiring ∧ (s.drop 4).state = .online ∧
      t.retire = op 5 ∧ t.drop 3 = Drop.vacant 7 ∧ t.drop 4 = Drop.vacant 7 ∧ (t.drop 5).state = .retiring ∧
      t.hli.ready = [] := by decide +kernel

/-- A range that ends after the visit it waited for: OK with the count (R58). -/
theorem test_retire_ends_after_the_visit :
    let t := after (.replyTimeout .a) (after (.dropRetire 0x01#8 [0x01#8, 0x04#8]) mixedRange)
    t.retire = none ∧ t.drop 4 = Drop.vacant 7 ∧ (t.drop 5).state = .online ∧
      t.hli.ready.map OutRecord.body = [[0x00#8, 0x04#8]] := by decide +kernel

/-- The cut-off of a move raises INBOX_ALERT by the alert mark, and leaves OUTBOX_LOW and DROP_STATE (R93, R94). -/
theorem test_cut_off_raises_inbox_alert :
    let t := fun alert => after (.dropMove 0x02#8 [0x03#8, 0x07#8, 0x01#8, 0x09#8, 0x00#8])
      (withDrop { drop5 with partialMsg := some opening, alertByte := some alert })
    (t 0x01#8).au.slot 3 = { SlotAttn.clear with inboxAlert := true } ∧ (t 0x02#8).au.slot 3 = .clear ∧
      ((t 0x01#8).drop 3).inbox.map InMsg.alertMark = [true] := by decide +kernel

/-- An interrupted probe window is taken up by the next VISIT_START (R107, R111, log 26): its visit when the countdown comes
to 0, else its end, and the urgent visit of the idle period in the same act. -/
theorem test_probe_window_taken_up :
    let s := fun (step : Bool) (n : Byte) (list urgent : List Slot) => lineA (fun c => { c with
      phase := .probe, probeStep := step, probeCountdown := n, probeList := list, urgent := urgent }) base
    let seen := fun t : State => ((t.lc .a).phase, (t.lc .a).probeCountdown, (t.lc .a).visit.map Visit.origin)
    seen (after (.visitStart .a) (s false 1 [4] [])) = (.probe, 16, some .probe) ∧
      seen (after (.visitStart .a) (s false 1 [4] [3])) = (.probe, 16, some .urgent) ∧
      seen (after (.visitStart .a) (s false 1 [] [])) = (.idle, 16, none) ∧
      seen (after (.visitStart .a) (s false 2 [4] [])) = (.idle, 1, none) ∧
      seen (after (.visitStart .a) (s true 2 [] [3])) = (.idle, 2, some .urgent) ∧
      ((after (.roundPeriodElapsed .a) (s false 2 [4] [])).lc .a).roundNumber = 1 ∧
      after (.roundPeriodElapsed .a) (s false 1 [4] []) = s false 1 [4] [] := by decide +kernel

theorem test_stop_waits_for_the_visit :
    let s := after (.lineStop 0x02#8 [0x00#8]) (visiting drop5 (visit3 .poll none 2 .reply) .awaitingReply)
    let t := after (.replyTimeout .a) s
    (s.lc .a).state = .stopping ∧ s.hli.ready = [] ∧ (t.lc .a).state = .stopped ∧
      t.hli.ready = [{ tag := 0x02#8, kind := 0xB2#8, body := [0x00#8], origin := .request }] := by decide +kernel

/-- LINE_RESET cuts off a visit to a RETIRING drop, whose entry becomes VACANT and whose DROP_RETIRE is answered first, and
frees the broadcast that waited on the line alone (R145). -/
theorem test_line_reset_settles_the_cut_visit :
    let s := after (.msgBroadcast 0x03#8 [0x01#8, 0xFF#8, 0x42#8]) (after (.dropRetire 0x01#8 [0x03#8, 0x01#8])
      (visiting drop5 (visit3 .poll none 1 .reply) .awaitingReply))
    let t := after (.lineReset 0x02#8 [0x00#8]) s
    (s.drop 3).state = .retiring ∧ t.drop 3 = Drop.vacant 7 ∧ t.retire = none ∧ (t.lc .a).state = .disabled ∧
      t.hli.ready.map (fun r => (r.tag, r.body)) =
        [(0x03#8, [0x00#8]), (0x01#8, [0x00#8, 0x01#8]), (0x02#8, [0x00#8])] ∧
      t.store.freeCells.length = 512 ∧ (t.au.line .a).dropped = 1 := by decide +kernel

/-- A pending move of the cut visit may be applied onto the reset line itself (R53, R145). -/
theorem test_line_reset_applies_the_pending_move :
    let s := after (.dropMove 0x01#8 [0x03#8, 0x07#8, 0x00#8, 0x09#8, 0x00#8])
      (visiting drop5 (visit3 .poll none 1 .reply) .awaitingReply)
    let t := after (.lineReset 0x02#8 [0x00#8]) s
    (t.drop 3).address = 9 ∧ (t.drop 3).state = .joining ∧ (t.lc .a).ring.map RingEntry.slot = [3] ∧
      (t.lc .a).state = .disabled ∧ t.hli.ready.map OutRecord.tag = [0x01#8, 0x02#8] := by decide +kernel

theorem test_low_stop_bit_holds_the_input :
    let t := after (.fieldCharacterReceived .a { data := 5#8, parity := false, stop := false }) base
    (t.lc .a).rxLow = true ∧ after (.turnaroundGapElapsed .a) t = t ∧
      after (.fieldReceiveInputReturnsHigh .a) t = base := by decide +kernel

theorem test_purge_of_a_locked_head_sets_the_settle_wait :
    (after (.msgPurge 0x02#8 [0x03#8, 0x07#8, 0x02#8])
      (withDrop { drop5 with outbox := [twoSegments], headLock := true })).drop 3 =
      { drop5 with settleWait := true } := by decide +kernel

/-! ## The hypotheses of the statements can be met -/

theorem test_met_idle : State.reset.pending = [] := rfl

theorem test_met_reset_holds : (link (fun h => { h with inReset := true }) State.reset).hli.inReset = true := rfl

theorem test_met_admission_tag_in_use :
    let s := link (fun h => { h with outstanding := [oneOut 0xFF#8 .working] }) State.reset
    s.listens = true ∧ (∃ o ∈ s.hli.outstanding, o.tag = 0xFF#8) ∧ (List.replicate 248 0#8).length ≤ 248 ∧
      s.hli.immediateUsed = false ∧ (link (fun h => { h with immediateUsed := true }) s).hli.immediateUsed = true := by
  decide +kernel

theorem test_met_admission_table_full :
    let s := link (fun h => { h with outstanding := [oneOut 1#8 .ready, oneOut 2#8 .ready, oneOut 3#8 .ready, oneOut 4#8 .ready] })
      State.reset
    s.listens = true ∧ (∀ o ∈ s.hli.outstanding, o.tag ≠ 5#8) ∧ 4 ≤ s.hli.outstanding.length := by decide +kernel

theorem test_met_rejection_len :
    rejectedBytes [0xA5#8, 0x01#8, 0x07#8] = true ∧
      (runFramer .hunt [0xA5#8, 0x01#8, 0x07#8]).2 = [Handed.badLen 0x07#8] ∧
      (runFramer .hunt [0xA5#8, 0xFB#8, 0x07#8]).2 = [Handed.badLen 0x07#8] ∧ State.reset.listens = true := by
  decide +kernel

theorem test_met_rejection_check :
    rejectedBytes [0xA5#8, 0x02#8, 0x07#8, 0x01#8, 0x00#8, 0x00#8] = true ∧
      (runFramer .hunt [0xA5#8, 0x02#8, 0x07#8, 0x01#8, 0x00#8, 0x00#8]).2 =
        [Handed.whole 0x07#8 0x01#8 [] false] := by decide +kernel

theorem test_met_rejection_kind :
    rejectedBytes (recordBytes 0x07#8 0x04#8 []) = true ∧
      (runFramer .hunt (recordBytes 0x07#8 0x04#8 [])).2 = [Handed.whole 0x07#8 0x04#8 [] true] ∧
      ReqKind.ofByte 0x04#8 = none := by decide +kernel

theorem test_met_rejection_tag :
    rejectedBytes (recordBytes 0x00#8 0x01#8 []) = true ∧
      (runFramer .hunt (recordBytes 0x00#8 0x01#8 [])).2 = [Handed.whole 0x00#8 0x01#8 [] true] ∧
      ReqKind.ofByte 0x01#8 ≠ none := by decide +kernel

theorem test_met_pending_restart :
    let s := link (fun h => { h with restartPending := true }) State.reset
    s.hli.inReset = false ∧ s.hli.hrxdLow = false ∧ s.hli.framer = .hunt ∧ s.hli.restartPending = true ∧
      rejectedBytes [0xA5#8, 0x01#8, 0x07#8] = true := by decide +kernel

theorem test_met_partial_record :
    State.reset.hli.inReset = false ∧ State.reset.hli.hrxdLow = false ∧ State.reset.hli.framer = .hunt ∧
      partialBytes [] = true ∧ partialBytes [0xA5#8, 0x02#8, 0x07#8, 0x01#8, 0x00#8] = true := by decide +kernel

theorem test_met_hrdy :
    let busy := link (fun h => { h with tx := some (record 1#8 .request) }) State.reset
    let ready := link (fun h => { h with ready := [record 1#8 .request] }) State.reset
    let quiet := State.reset.setAu { State.reset.au with restarted := false }
    busy.hli.inReset = false ∧ busy.hli.tx ≠ none ∧ ready.hli.tx = none ∧ ready.hli.ready = [record 1#8 .request] ∧
      quiet.hli.ready = [] ∧ quiet.selectionOrder.all (fun c => !quiet.eligible c) = true ∧
      State.reset.selectionOrder.head? = some .restarted ∧ State.reset.eligible .restarted = true := by decide +kernel

theorem test_met_framing : (List.replicate 248 0#8).length ≤ 248 ∧ ([] : List Byte).length ≤ 248 ∧
    (0#16 : Half) ≠ crc16 [0x02#8, 0x07#8, 0x01#8] := by decide +kernel

theorem test_met_record_end :
    (link (fun h => { h with tx := some (record 0#8 .notice) }) State.reset).hli.tx = some (record 0#8 .notice) ∧
    (link (fun h => { h with tx := some (record 1#8 .immediate) }) State.reset).hli.tx = some (record 1#8 .immediate) ∧
    (link (fun h => { h with tx := some (record 1#8 .request) }) State.reset).hli.tx = some (record 1#8 .request) ∧
    (link (fun h => { h with tx := some (record 1#8 .restart) }) State.reset).hli.tx = some (record 1#8 .restart) :=
  ⟨rfl, rfl, rfl, rfl⟩

theorem test_met_refused_request :
    exec (ReqKind.dropQuery.command 1#8 [64#8]) State.reset =
        .next (after (.dropQuery 1#8 [64#8]) State.reset) ∧
      State.reset.admits 1#8 [64#8] = true ∧
      TurnedAway State.reset (after (.dropQuery 1#8 [64#8]) State.reset) 1#8 .dropQuery .badValue := by
  refine ⟨rfl, ?_⟩
  unfold TurnedAway Answers
  decide +kernel

theorem test_met_wrong_length :
    State.reset.admits 1#8 [] = true ∧ State.reset.admits 0xFF#8 [0#8] = true ∧
      State.reset.admits 1#8 (List.replicate 248 0#8) = true ∧ ([] : List Byte).length ≠ 17 ∧
      ([] : List Byte).length < 2 ∧ (List.replicate 248 0#8).length ≠ 1 := by decide +kernel

theorem test_met_entry_check :
    base.admits 1#8 [64#8, 0#8] = true ∧ 64 ≤ (64#8 : Byte).toNat ∧
      (2#8 : Byte).toNat = (2 : Slot).val ∧ (base.drop 2).state = .vacant ∧
      (3#8 : Byte).toNat = (3 : Slot).val ∧ (base.drop 3).state ≠ .vacant ∧ (base.drop 3).generation ≠ 8#8 ∧
      ([1#8, 2#8, 3#8] : List Byte).length = 3 := by decide +kernel

theorem test_met_simple_requests :
    State.reset.admits 1#8 [] = true ∧ State.reset.admits 1#8 [0x07#8, 0xFF#8] = true ∧ State.reset.admits 1#8 [3#8] = true ∧
      State.reset.hli.inReset = false := by decide +kernel

theorem test_met_attn_mask_values :
    (halfOf 0x07#8 0xFF#8).getLsbD 0 = true ∧ (halfOf 0x07#8 0xFF#8).toNat < 2048 ∧
      (halfOf 0x07#8 0xFE#8).getLsbD 0 = false ∧ ¬ (halfOf 0x08#8 0x01#8).toNat < 2048 := by decide +kernel

/-- The bytes of a DROP_CREATE at the upper ends of their ranges. -/
def createBody : DropBody :=
  { address := 239, home := 0x00#8, alternate := 0x01#8, cls := 4, groups := 15, retryLimit := 7, replyTimeout := 255
    inboxLimit := 16, inboxTrigger := 16, outboxLimit := 16, outboxTrigger := 15, maxInbound := 224, notify := 0x01#8
    alertPresence := 0x01#8, alertValue := 0x7F#8 }

theorem test_met_drop_create :
    let b := createBody
    base.admits 1#8 [0xFF#8, b.address, b.home, b.alternate, b.cls, b.groups, b.retryLimit, b.replyTimeout, b.inboxLimit,
        b.inboxTrigger, b.outboxLimit, b.outboxTrigger, b.maxInbound, b.notify, b.alertPresence, b.alertValue] = true ∧
      b.address.toNat ≤ 239 ∧ b.home = lineByte .a ∧ b.alternate = optLineByte (some .b) ∧ b.cls.toNat ≤ 4 ∧
      b.groups.toNat < 16 ∧ b.retryLimit.toNat ≤ 7 ∧ b.inboxLimit.toNat ≤ 16 ∧ b.inboxTrigger.toNat ≤ b.inboxLimit.toNat ∧
      b.outboxLimit.toNat ≤ 16 ∧ b.outboxTrigger.toNat < b.outboxLimit.toNat ∧ b.maxInbound.toNat ≤ 224 ∧
      b.notify = flagByte true ∧ b.alertPresence = flagByte (some b.alertValue).isSome ∧
      (∀ j, (base.drop j).holds .a b.address = false) ∧ (base.drop 0).state = .vacant ∧
      (∀ j < (0 : Slot), (base.drop j).state ≠ .vacant) := by decide +kernel

theorem test_met_drop_create_refusals :
    (∀ i : Slot, (3#8 : Byte).toNat = i.val ∨ (3#8 : Byte) = 0xFF#8 → (base.drop i).state ≠ .vacant) ∧
      (base.drop 3).holds .a 5#8 = true ∧ (base.drop 63).state = .vacant ∧ (63#8 : Byte).toNat = (63 : Slot).val := by
  decide +kernel

theorem test_met_drop_create_bad_values :
    base.admits 1#8 (64#8 :: List.replicate 15 0#8) = true ∧ (64#8 : Byte).toNat ≥ 64 ∧ (64#8 : Byte) ≠ 0xFF#8 ∧
      239 < (240#8 : Byte).toNat ∧ 1 < (2#8 : Byte).toNat ∧ (createBody.outboxLimit.toNat ≤ (16#8 : Byte).toNat) ∧
      224 < (225#8 : Byte).toNat := by decide +kernel

theorem test_met_ring_append :
    (base.lc .a).cursor ≤ (base.lc .a).ring.length ∧ (base.lc .a).cursor < (base.lc .a).ring.length ∧
      (base.lc .b).cursor = (base.lc .b).ring.length := by decide +kernel

theorem test_met_removals :
    let e := fun i : Slot => ({ slot := i, due := true } : RingEntry)
    let c := { LineCtl.reset with ring := [e 2, e 3, e 4], cursor := 1, deferred := .ring, probeList := [5, 6], urgent := [3] }
    c.ring = [e 2] ++ e 3 :: [e 4] ∧ (e 3).slot = 3 ∧ (∀ x ∈ [e 2], x.slot ≠ 3) ∧ (∀ x ∈ c.ring, x.slot ≠ 5) ∧
      c.probeList = [] ++ 5 :: [6] ∧ (5 : Slot) ∉ ([] : List Slot) ∧ (3 : Slot) ∉ c.probeList ∧ c.urgent = [] ++ 3 :: [] ∧
      (5 : Slot) ∉ c.urgent := by decide +kernel

theorem test_met_drop_modify :
    base.admits 1#8 [3#8, 7#8, 0x0F#8, 0xFF#8, 4#8, 15#8, 0xFF#8, 7#8, 255#8, 16#8, 16#8, 16#8, 15#8, 224#8, 1#8, 1#8, 9#8] = true ∧
      (base.drop 3).state ≠ .retiring ∧ (halfOf 0x0F#8 0xFF#8).toNat < 4096 ∧
      (3#8 : Byte).toNat = (3 : Slot).val ∧ (base.drop 3).state ≠ .vacant ∧ (base.drop 3).generation = 7#8 ∧
      (base.drop 3).inboundCount ≤ 16 ∧ (base.drop 3).outbox.length ≤ 16 ∧ ¬ (15 : Nat) < 15 := by decide +kernel

theorem test_met_drop_modify_refusals :
    let zeros := List.replicate 13 0#8
    let s := withDrop { drop5 with state := .retiring }
    s.admits 1#8 (3#8 :: 7#8 :: 0#8 :: 0#8 :: zeros) = true ∧ (s.drop 3).state = .retiring ∧
      base.admits 1#8 (3#8 :: 7#8 :: 0x10#8 :: 0#8 :: zeros) = true ∧ 4096 ≤ (halfOf 0x10#8 0x00#8).toNat ∧
      base.admits 1#8 (3#8 :: 7#8 :: 0#8 :: 1#8 :: zeros) = true ∧ (halfOf 0x00#8 0x01#8).getLsbD 0 = true ∧
      (0#8 : Byte).toNat = 0 := by decide +kernel

theorem test_met_drop_move_checks :
    base.admits 1#8 [3#8, 7#8, 0#8, 5#8, 0#8] = true ∧ (base.drop 3).pendingMove = none ∧ (base.drop 3).state ≠ .retiring ∧
      (0#8 : Byte) = lineByte (base.drop 3).currentLine ∧ (base.drop 3).address = 5#8 ∧
      ((lineA (fun c => { c with state := .fault }) base).lc .a).state = .fault ∧
      (let two := base.setDrop 63 { drop5 with address := 239 }
       (63 : Slot) ≠ 3 ∧ (two.drop 63).holds .a 239#8 = true) ∧
      ((withDrop { drop5 with pendingMove := some { line := .b, address := 9, setHome := false, tag := 2 } }).drop 3).pendingMove
        ≠ none := by decide +kernel

theorem test_met_drop_move_applied :
    let inFlight := visiting drop5 (visit3 .poll none 0 .gap) .notWaiting
    base.admits 1#8 [3#8, 7#8, lineByte .b, 239#8, 3#8] = true ∧ (base.drop 3).link.inFlight = false ∧
      (base.lc .b).state ≠ .fault ∧ (∀ j, j ≠ (3 : Slot) → (base.drop j).holds .b 239#8 = false) ∧
      inFlight.admits 1#8 [3#8, 7#8, lineByte .b, 1#8, 0#8] = true ∧ (inFlight.drop 3).link.inFlight = true ∧
      (inFlight.drop 3).pendingMove = none ∧ (inFlight.drop 3).generation = 7#8 := by decide +kernel

theorem test_met_drop_retire :
    base.admits 1#8 [0#8, 64#8] = true ∧ base.retire = none ∧ (0#8 : Byte).toNat + (64#8 : Byte).toNat ≤ 64 ∧
      (∀ i : Slot, (base.drop i).state = .vacant ∨ (base.drop i).state.live = true ∧ (base.drop i).link.inFlight = false ∧
        (base.drop i).pendingMove = none) ∧
      (let s := visiting drop5 (visit3 .poll none 0 .gap) .notWaiting
       s.admits 1#8 [3#8, 61#8] = true ∧ s.retire = none ∧ (3#8 : Byte).toNat + (61#8 : Byte).toNat ≤ 64 ∧
         (s.drop 3).state.live = true ∧ (s.drop 3).link.inFlight = true) := by decide +kernel

/-- A range in which VACANT slots and an idle drop precede the first drop in flight. -/
theorem test_met_drop_retire_mixed :
    mixedRange.admits 1#8 [0#8, 8#8] = true ∧ mixedRange.retire = none ∧ (mixedRange.drop 3).state.live = true ∧
      (mixedRange.drop 3).link.inFlight = true ∧
      ∀ i : Slot, i < 3 → (mixedRange.drop i).state = .vacant ∨
        (mixedRange.drop i).state.live = true ∧ (mixedRange.drop i).link.inFlight = false := by decide +kernel

theorem test_met_drop_retire_refusals :
    let op : RetireOp := { tag := 2, first := 0, count := 1, next := 0, completed := 0, cancelTag := none }
    base.admits 1#8 [63#8, 2#8] = true ∧ ¬ (1 ≤ (2#8 : Byte).toNat ∧ (63#8 : Byte).toNat + (2#8 : Byte).toNat ≤ 64) ∧
      ¬ (1 ≤ (0#8 : Byte).toNat ∧ (0#8 : Byte).toNat + (0#8 : Byte).toNat ≤ 64) ∧
      (base.setRetire (some op)).admits 1#8 [63#8, 1#8] = true ∧ (base.setRetire (some op)).retire ≠ none ∧
      (63#8 : Byte).toNat + (1#8 : Byte).toNat ≤ 64 := by decide +kernel

theorem test_met_cancel :
    let moving := withDrop { drop5 with pendingMove := some { line := .b, address := 9, setHome := false, tag := 2 } }
    let op : RetireOp := { tag := 2, first := 0, count := 1, next := 0, completed := 0, cancelTag := none }
    base.admits 1#8 [2#8] = true ∧ base.admits 1#8 [0#8] = true ∧ moving.admits 1#8 [2#8] = true ∧
      (moving.drop 3).pendingMove.map PendingMove.tag = some 2#8 ∧
      (∀ j, j ≠ (3 : Slot) → (moving.drop j).pendingMove = none) ∧
      (base.setRetire (some op)).retire = some op ∧ op.tag = 2#8 ∧ op.cancelTag = none ∧
      (∀ j, ((base.setRetire (some op)).drop j).pendingMove = none) ∧ base.retire = none := by decide +kernel

theorem test_met_outbox_insertion :
    twoSegments.urgent = false ∧ ({ twoSegments with urgent := true } : OutMsg).urgent = true := ⟨rfl, rfl⟩

theorem test_met_submit :
    base.admits 1#8 (3#8 :: 7#8 :: 1#8 :: List.replicate 224 0#8) = true ∧ (base.drop 3).state ≠ .retiring ∧
      (1#8 : Byte).toNat ≤ 1 ∧ (List.replicate 224 0#8).length ≤ 224 ∧
      (base.drop 3).outbox.length < (base.drop 3).outboxLimit.toNat ∧ base.store.hold = false ∧
      ((List.replicate 224 0#8).length + 31) / 32 ≤ base.store.freeCells.length ∧
      base.store.freeRecords = 0 :: (List.range 256).tail := by decide +kernel

theorem test_met_submit_checks :
    (withDrop { drop5 with state := .retiring }).admits 1#8 [3#8, 7#8, 0#8, 1#8] = true ∧
      base.admits 1#8 [3#8, 7#8, 2#8, 1#8] = true ∧ base.admits 1#8 [3#8, 7#8, 0#8] = true ∧
      (withDrop { drop5 with outboxLimit := 0 }).admits 1#8 [3#8, 7#8, 0#8, 1#8] = true ∧
      (stored (fun st => { st with hold := true }) base).store.hold = true ∧
      (stored (fun st => { st with freeRecords := [] }) base).store.freeRecords = [] ∧
      (stored (fun st => { st with freeCells := [1] }) base).store.freeCells.length < (33 + 31) / 32 := by decide +kernel

theorem test_met_fetch_and_release :
    let s := withDrop { drop5 with inbox := [inbound] }
    base.admits 1#8 [3#8, 7#8] = true ∧ (base.drop 3).inbox = [] ∧ s.admits 1#8 [3#8, 7#8] = true ∧
      (s.drop 3).inbox = [inbound] ∧ s.admits 1#8 [3#8, 7#8, 0#8] = true ∧ inbound.id = some 0#8 ∧ inbound.fetched = true ∧
      inbound.id ≠ some 1#8 := by decide +kernel

theorem test_met_purge :
    base.admits 1#8 [3#8, 7#8, 0#8] = true ∧ base.admits 1#8 [3#8, 7#8, 1#8] = true ∧ base.admits 1#8 [3#8, 7#8, 3#8] = true ∧
      base.admits 1#8 [3#8, 7#8, 4#8] = true := by decide +kernel

theorem test_met_broadcast :
    base.admits 1#8 (3#8 :: 0xFF#8 :: List.replicate 32 0#8) = true ∧ (base.lc .a).state = .running ∧
      (base.lc .b).state = .running ∧ (base.bcastQueue .a).length < 4 ∧ (base.bcastQueue .b).length < 4 ∧
      base.store.hold = false ∧ base.store.freeCells = 0 :: (List.range 512).tail := by decide +kernel

theorem test_met_broadcast_checks :
    base.admits 1#8 [0#8, 1#8, 9#8] = true ∧ base.admits 1#8 [1#8, 5#8, 9#8] = true ∧ base.admits 1#8 [1#8, 4#8] = true ∧
      State.reset.admits 1#8 [1#8, 4#8, 9#8] = true ∧ (State.reset.lc .a).state = .disabled ∧
      (let b : Bcast := { recNo := 0, cell := { no := 0, data := [1] }, target := .all, onA := true, onB := false }
       ((stored (fun st => { st with bcasts := [b, b, b, b] }) base).bcastQueue .a).length = 4) := by decide +kernel

theorem test_met_pool_marks :
    State.reset.admits 1#8 [0x01#8, 0xFF#8, 0x02#8, 0x00#8, 0x02#8, 0x00#8] = true ∧ (halfOf 0x01#8 0xFF#8).toNat = 511 ∧
      (halfOf 0x02#8 0x00#8).toNat = 512 ∧ 511 < (halfOf 0x02#8 0x00#8).toNat ∧ 512 < (halfOf 0x02#8 0x01#8).toNat := by
  decide +kernel

theorem test_met_line_config :
    State.reset.admits 1#8 [lineByte .a, 5#8, 32#8, 0#8, 255#8, 32#8] = true ∧ (State.reset.lc .a).state = .disabled ∧
      base.admits 1#8 [lineByte .a, 0#8, 2#8, 0#8, 1#8, 2#8] = true ∧ (base.lc .a).state = .running ∧
      State.reset.admits 1#8 [2#8, 0#8, 2#8, 0#8, 1#8, 2#8] = true := by decide +kernel

theorem test_met_line_requests :
    let at_ := fun st : LineState => (lineA (fun c => { c with state := st }) base).admits 1#8 [lineByte .a]
    State.reset.admits 1#8 [lineByte .a] = true ∧ base.admits 1#8 [lineByte .b] = true ∧ at_ .stopping = true ∧
      at_ .stopped = true ∧ at_ .fault = true ∧ (base.lc .a).visit = none ∧
      (let s := visiting drop5 (visit3 .poll none 0 .gap) .notWaiting
       s.admits 1#8 [lineByte .a] = true ∧ (s.lc .a).visit ≠ none ∧ (s.drop 3).state.live = true ∧
         (s.drop 3).currentLine = .a ∧ (s.drop 3).pendingMove = none) := by decide +kernel

theorem test_met_line_reset_of_a_stopping_line :
    let s := lineA (fun c => { c with state := .stopping, stopTag := some 2#8 }) base
    s.admits 1#8 [lineByte .a] = true ∧ (s.lc .a).stopTag = some 2#8 ∧ (s.lc .a).visit = none := by decide +kernel

theorem test_met_line_reset_of_a_cut_visit :
    let moving := visiting { drop5 with pendingMove := some { line := .a, address := 9, setHome := false, tag := 2 } }
      (visit3 .poll none 1 .reply) .awaitingReply
    let leaving := visiting { drop5 with state := .retiring } (visit3 .poll none 1 .reply) .awaitingReply
    moving.admits 1#8 [0#8] = true ∧ leaving.admits 1#8 [0#8] = true ∧ (leaving.drop 3).state = .retiring ∧
      base.admits 1#8 [2#8] = true ∧ base.admits 1#8 [] = true := by decide +kernel

theorem test_met_poll_now :
    base.admits 1#8 [3#8, 7#8] = true ∧ (base.lc .a).urgent = [] ∧
      (let s := lineA (fun c => { c with urgent := [3] }) base
       s.admits 1#8 [3#8, 7#8] = true ∧ (3 : Slot) ∈ (s.lc .a).urgent) ∧
      (let s := lineA (fun c => { c with urgent := [10, 11, 12, 13, 14, 15, 16, 17] }) base
       s.admits 1#8 [3#8, 7#8] = true ∧ (3 : Slot) ∉ (s.lc .a).urgent ∧ 8 ≤ (s.lc .a).urgent.length) ∧
      (let s := lineA (fun c => { c with state := .fault }) base
       s.admits 1#8 [3#8, 7#8] = true ∧ (s.lc .a).state = .fault) ∧
      (withDrop { drop5 with state := .retiring }).admits 1#8 [3#8, 7#8] = true := by decide +kernel

theorem test_met_visit_start_ring :
    base.hli.inReset = false ∧ (base.lc .a).state = .running ∧ (base.lc .a).visit = none ∧ (base.lc .a).bcastFrame = none ∧
      (base.lc .a).phase = .ringWalk ∧ (base.lc .a).ring.drop (base.lc .a).cursor = [] ++ { slot := 3, due := true } :: [] ∧
      (base.lc .a).deferred ≠ .ring ∧ (base.lc .a).urgent = [] ∧ (base.lc .b).phase = .ringWalk ∧
      (base.lc .b).ring.drop (base.lc .b).cursor = [] ∧
      ((lineA (fun c => { c with urgent := [10] }) base).lc .a).urgent = 10 :: [] ∧ (10 : Slot) ≠ 3 := by decide +kernel

theorem test_met_visit_start_windows :
    let s := fun p : RoundPhase => lineA (fun c => { c with phase := p, probeStep := true, probeList := [4], urgent := [5] }) base
    (s .probe).hli.inReset = false ∧ ((s .probe).lc .a).state = .running ∧ ((s .probe).lc .a).visit = none ∧
      ((s .probe).lc .a).bcastFrame = none ∧ ((s .probe).lc .a).phase = .probe ∧ ((s .probe).lc .a).probeStep = true ∧
      ((s .probe).lc .a).probeList = 4 :: [] ∧ ((s .probe).lc .a).urgent = 5 :: [] ∧ ((s .probe).lc .a).deferred ≠ .probe ∧
      ((s .idle).lc .a).phase = .idle ∧ ((s .broadcast).lc .a).phase = .broadcast ∧
      ((s .idle).lc .a).idleServed = false ∧
      (let served := lineA (fun c => { c with idleServed := true }) (s .idle)
       (served.lc .a).idleServed = true ∧
         (served.lc .a).cfg.roundPeriod.toNat ≤ (served.lc .a).roundElapsed) := by decide +kernel

/-- A probe window interrupted before its step, by its countdown and its list, and one with its step done and nothing to
probe. -/
theorem test_met_visit_start_interrupted :
    let c := fun (step : Bool) (n : Byte) (list : List Slot) => { base.lc .a with
      phase := RoundPhase.probe, probeStep := step, probeCountdown := n, probeList := list }
    (lineA (fun _ => c false 1 [4]) base).lc .a = c false 1 [4] ∧ (c false 1 [4]).probeTakenUp.phase = .probe ∧
      (c false 1 []).probeTakenUp.phase = .idle ∧ (c false 0 [4]).probeTakenUp.phase = .idle ∧
      (c true 1 []).probeTakenUp.phase = .idle ∧ (c true 1 [4]).probeTakenUp = c true 1 [4] ∧
      (c false 1 []).state = .running ∧ (c false 1 []).visit = none ∧ (c false 1 []).bcastFrame = none := by decide +kernel

theorem test_met_frame :
    (withDrop { drop5 with link := .fresh }).drop 3 = { drop5 with link := .fresh } ∧ drop5.link.resyncNeeded = false ∧
      drop5.outbox = [] ∧ drop5.settleWait = false ∧
      (let d := { drop5 with outbox := [twoSegments] }
       d.outbox = twoSegments :: [] ∧ (twoSegments.chain[d.link.segIndex]?).isSome = true ∧
         (∀ c ∈ twoSegments.chain, c.data.length ≤ 32)) := by decide +kernel

/-- A broadcast queued on line A alone, its cell and record taken. -/
def broadcasting : State :=
  stored (fun st => { st with
      freeCells := st.freeCells.drop 1, freeRecords := st.freeRecords.drop 1
      bcasts := [{ recNo := 0, cell := { no := 0, data := [1] }, target := .all, onA := true, onB := false }] })
    (lineA (fun c => { c with ring := [] }) base)

theorem test_met_broadcast_window :
    broadcasting.hli.inReset = false ∧ (broadcasting.lc .a).state = .running ∧ (broadcasting.lc .a).visit = none ∧
      (broadcasting.lc .a).bcastFrame = none ∧ (broadcasting.lc .a).phase = .ringWalk ∧ (broadcasting.lc .a).ring = [] ∧
      (broadcasting.bcastQueue .a).length = 1 ∧ broadcasting.bcastQueue .b = [] := by decide +kernel

theorem test_met_store_conserved : StoreConserved broadcasting := by
  unfold StoreConserved Drop.emptyUnlessLive
  decide +kernel

theorem test_met_frame_end_and_round_end :
    let sent := lineA (fun c => { c with phase := .broadcast, bcastFrame := some { chars := [], sending := true } }) base
    let idle := lineA (fun c => { c with phase := .idle }) base
    sent.hli.inReset = false ∧ (sent.lc .a).bcastFrame = some { chars := [], sending := true } ∧
      (idle.lc .a).state = .running ∧ (idle.lc .a).visit = none ∧ (idle.lc .a).bcastFrame = none ∧
      (idle.lc .a).phase = .idle ∧ (idle.lc .a).urgent = [] ∧ (idle.lc .a).idleServed = false := by decide +kernel

theorem test_met_attempt :
    let gap := visiting drop5 (visit3 .poll none 0 .gap) .notWaiting
    let send := visiting drop5 (visit3 .poll none 1 .send) .notWaiting
    let frame := lineA (fun c => { c with bcastFrame := some { chars := [], sending := false }, gapHeld := true }) base
    gap.hli.inReset = false ∧ (gap.lc .a).visit = some (visit3 .poll none 0 .gap) ∧ (gap.lc .a).gapHeld = false ∧
      (send.lc .a).visit = some (visit3 .poll none 1 .send) ∧ (frame.lc .a).visit = none ∧
      (frame.lc .a).bcastFrame = some { chars := [], sending := false } ∧ (frame.lc .a).gapHeld = true := by decide +kernel

theorem test_met_failed_attempt :
    let first := visiting drop5 (visit3 .poll none 1 .reply) .awaitingReply
    let last := visiting drop5 (visit3 .poll none 2 .reply) (.receiving [5#8])
    first.hli.inReset = false ∧ (first.lc .a).visit = some (visit3 .poll none 1 .reply) ∧
      (first.lc .a).receiver = .awaitingReply ∧ (last.lc .a).visit = some (visit3 .poll none 2 .reply) ∧
      (last.lc .a).receiver = .receiving [5#8] ∧ (last.drop 3).state.live = true ∧ (last.drop 3).currentLine = .a ∧
      (last.drop 3).pendingMove = none ∧ (last.lc .a).state = .running ∧
      (last.lc .a).failCount + 1 < (last.lc .a).cfg.faultThreshold.toNat ∧
      (let f := lineA (fun c => { c with failCount := 7 }) last
       (f.lc .a).cfg.faultThreshold.toNat ≤ (f.lc .a).failCount + 1) := by decide +kernel

/-- An attempt that its first character fails; a visit whose drop is RETIRING, has a pending move, or stands on a STOPPING
line. -/
theorem test_met_failed_attempt_forms :
    let v := visit3 .poll none 2 .reply
    let at_ := fun d : Drop => visiting d v .awaitingReply
    let moving := at_ { drop5 with pendingMove := some { line := .b, address := 9, setHome := true, tag := 2 } }
    let stops := lineA (fun c => { c with state := .stopping, stopTag := some 1 }) (at_ drop5)
    ((at_ drop5).lc .a).receiver = .awaitingReply ∧ ((at_ drop5).lc .a).rxLow = false ∧
      ((at_ drop5).lc .a).bcastFrame = none ∧ v.phase = .reply ∧ cleanChar 6#8 ≠ cleanChar v.address ∧
      (cleanChar 6#8).stop = true ∧ v.attemptLimit ≤ v.attempts ∧
      ((at_ { drop5 with state := .retiring }).drop 3).state = .retiring ∧
      (moving.drop 3).pendingMove ≠ none ∧ (moving.lc .b).state ≠ .fault ∧ (moving.drop 3).state.live = true ∧
      (stops.lc .a).state = .stopping ∧ (stops.drop 3).state.live = true := by decide +kernel

/-- Bytes of a reply after which one more is expected, and a character that fails each test of R17 after them: address,
kind, flags, length, CRC, parity and stop bit; and one that passes. -/
theorem test_met_failing_characters :
    let v := visit3 .poll none 2 .reply
    let fails := fun (got : List Byte) (b : Byte) => v.passes got = true ∧ v.passes (got ++ [b]) = false
    let empty := [0x05#8, 0x90#8, 0x00#8]
    fails [] 0x06#8 ∧ fails [0x05#8] 0xA0#8 ∧ fails [0x05#8] 0x10#8 ∧ fails [0x05#8, 0x90#8] 0x40#8 ∧
      fails [0x05#8, 0x80#8] 0x00#8 ∧ fails [0x05#8, 0x80#8] 0x21#8 ∧
      v.passes (empty ++ [0#8, 0#8]) = true ∧ replyLength (empty ++ [0#8, 0#8]) = some 5 ∧
      replyLength (empty ++ [0#8]) = some 5 ∧ (hiByte (crc16 empty), loByte (crc16 empty)) ≠ (0#8, 0#8) ∧
      v.passes [0x05#8, 0x80#8, 0x20#8] = true ∧ replyLength [0x05#8, 0x80#8, 0x20#8] = some 37 ∧
      { cleanChar 5#8 with parity := true } ≠ cleanChar 5#8 ∧ { cleanChar 5#8 with stop := false } ≠ cleanChar 5#8 := by
  decide +kernel

/-- A receiver inside a reply, before its third byte and before its last one. -/
theorem test_met_received_so_far :
    let s := fun got : List Byte => visiting drop5 (visit3 .poll none 2 .reply) (.receiving got)
    ((s [5#8, 0x90#8]).lc .a).receiver = .holding [5#8, 0x90#8] ∧ ((s [5#8, 0x90#8]).lc .a).rxLow = false ∧
      ((s [5#8, 0x90#8]).lc .a).bcastFrame = none ∧ (s [5#8, 0x90#8]).hli.inReset = false ∧
      ((s [5#8, 0x90#8, 0#8, 1#8]).lc .a).receiver = .holding [5#8, 0x90#8, 0#8, 1#8] ∧
      Receiver.holding [] = .awaitingReply := by decide +kernel

theorem test_met_field_character :
    let s := visiting drop5 (visit3 .poll none 1 .reply) .awaitingReply
    let v := visit3 .poll none 1 .reply
    let sends := visiting drop5 (visit3 .poll none 1 .send) .notWaiting
    s.hli.inReset = false ∧ (s.lc .a).visit = some v ∧ v.phase = .reply ∧ (s.lc .a).receiver = .awaitingReply ∧
      (s.lc .a).rxLow = false ∧ (s.lc .a).bcastFrame = none ∧ v.attempts < v.attemptLimit ∧
      cleanChar 4#8 ≠ cleanChar v.address ∧ { cleanChar 5#8 with stop := false } ≠ cleanChar v.address ∧
      { cleanChar 5#8 with parity := true } ≠ cleanChar v.address ∧ sends.driving .a = true ∧ (sends.lc .a).rxLow = false ∧
      ((lineA (fun c => { c with rxLow := true }) base).lc .a).rxLow = true := by decide +kernel

theorem test_met_reply_to_resync :
    let s := visiting { drop5 with state := .lost, link := .fresh } (visit3 .resync none 1 .reply) .awaitingReply
    (s.drop 3).state.live = true ∧ (s.drop 3).currentLine = .a ∧ (s.drop 3).pendingMove = none ∧
      (s.lc .a).state = .running ∧ 1 ≤ (s.lc .a).cfg.faultThreshold.toNat ∧ (s.lc .a).receiver = .awaitingReply ∧
      (s.lc .a).visit = some (visit3 .resync none 1 .reply) := by decide +kernel

theorem test_met_reply_to_deliver :
    let d := { drop5 with outbox := [twoSegments], headLock := true }
    let v := fun seg : Nat => visit3 .deliver (some { id := 4, seg := seg }) 1 .reply
    let s := fun seg : Nat => visiting d (v seg) .awaitingReply
    ((s 0).lc .a).visit = some (v 0) ∧ ((s 1).lc .a).visit = some (v 1) ∧ ((s 0).drop 3).outbox = twoSegments :: [] ∧
      ((s 0).drop 3).headLock = true ∧ true ≠ ((s 0).drop 3).link.seqOut ∧ 0 + 1 ≠ twoSegments.chain.length ∧
      1 + 1 = twoSegments.chain.length := by decide +kernel

/-- Replies of every kind at the ends of their payloads: DATA of 1 and of 32 bytes, EMPTY to a POLL, BUSY, RESYNC_REQ, and
a RETIRING drop. -/
theorem test_met_any_valid_reply :
    let f := fun (k : DropKind) (p : List Byte) =>
      ({ kind := k, seq := true, next := true, more := true, first := false, last := false, payload := p } : DropFrame)
    let s := fun (d : Drop) (k : MasterKind) => visiting d (visit3 k none 1 .reply) .awaitingReply
    ((s drop5 .poll).lc .a).visit = some (visit3 .poll none 1 .reply) ∧
      ((s drop5 .deliver).lc .a).visit = some (visit3 .deliver none 1 .reply) ∧
      ((s drop5 .poll).lc .a).receiver = .awaitingReply ∧ ((s drop5 .poll).drop 3).state.live = true ∧
      ((s { drop5 with state := .retiring } .poll).drop 3).state = .retiring ∧
      1 ≤ (f .data [0#8]).payload.length ∧ (f .data (List.replicate 32 0#8)).payload.length ≤ 32 ∧
      (f .empty []).payload = [] ∧ (f .busy []).first = false ∧ (f .resyncReq []).last = false := by decide +kernel

theorem test_met_offered_segment :
    let grown := withDrop { drop5 with partialMsg := some opening, maxInbound := 33 }
    (base.drop 3).partialMsg = none ∧ (base.drop 3).inbox.length < (base.drop 3).inboxLimit.toNat ∧
      1 ≤ (base.drop 3).maxInbound.toNat ∧ base.store.freeCells.head? = some 0 ∧ base.store.freeRecords.head? = some 0 ∧
      (grown.drop 3).partialMsg = some opening ∧ opening.status ≠ .overlong ∧ opening.segCount.toNat < 7 ∧
      opening.length + 32 ≤ (grown.drop 3).maxInbound.toNat ∧ grown.store.freeCells ≠ [] ∧
      (stored (fun st => { st with freeCells := [] }) grown).store.freeCells = [] ∧
      ((withDrop { drop5 with inbox := [inbound, inbound, inbound, inbound] }).drop 3).inbox.length = 4 := by decide +kernel

/-- Continuations at the limits of R91: cut short at the maximum inbound length, of a message already OVERLONG, as the
eighth segment; the alert mark of a message that a continuation completes; a FIRST over a partial message (R89, R93, R94). -/
theorem test_segments_at_their_limits :
    let at_ := fun p : InMsg => withDrop { drop5 with partialMsg := some p, maxInbound := 2, alertByte := some 1 }
    let cont := fun (p : InMsg) (last : Bool) => (offerSegment 3 false last [8#8, 9#8] (at_ p)).2.drop 3
    let full := { opening with segCount := 7, chain := [] }
    (cont opening false).partialMsg.map (fun m => (m.payload, m.status, m.segCount)) =
        some ([1#8, 8#8], .overlong, 2#8) ∧
      (cont { opening with status := .overlong } false).partialMsg.map InMsg.payload = some [1#8] ∧
      (cont full false).partialMsg.map (fun m => (m.payload, m.status, m.segCount)) = some ([], .overlong, 8#8) ∧
      (cont opening true).inbox.map InMsg.alertMark = [true] ∧ (cont full true).inbox.map InMsg.alertMark = [false] ∧
      ((offerSegment 3 true true [8#8, 9#8] (at_ opening)).2.drop 3).inbox.map (fun m => (m.id, m.status, m.alertMark)) =
        [(some 0#8, .incomplete, true), (some 1#8, .intact, false)] := by decide +kernel

theorem test_met_invariants :
    (State.reset.store.marksOrdered ∧ State.reset.store.holdRule) ∧ State.reset.hli.outstanding = [] ∧
      step State.reset = .next State.reset := by
  refine ⟨?_, rfl, rfl⟩
  unfold Store.marksOrdered Store.holdRule
  decide +kernel

theorem test_met_places_and_urgent : PlacesUnique State.reset ∧ UrgentRule State.reset := by
  refine ⟨⟨?_, ?_⟩, ?_⟩
  · intro i j l a _ h
    simp [State.drop, State.reset, Drop.holds, Drop.vacant] at h
  · decide +kernel
  · intro l
    cases l <;> decide +kernel

end Sys2Proof.Tests
end

section
/-!
How a request is answered: what a refusal is on the host link, and that an owner either refuses a request with nothing
changed or sends no refusal (R164).
-/

namespace Sys2Proof.Machine

/-! ## An admitted request and its answer -/

/-- An owner that posts one reply on the admitted state answers the request with it and changes nothing else. -/
theorem exec_posts {s : State} {tag : Byte} {body : List Byte} {k : ReqKind} (h : s.admits tag body = true)
    {code : ReplyCode} {data : List Byte}
    (e : ownerAct k tag body (admitEntry tag k s) = post tag k code data (admitEntry tag k s)) :
    ∃ t, exec (k.command tag body) s = .next t ∧ Answers s t tag k code data ∧ t.setHli s.hli = s := by
  refine ⟨_, exec_command k tag body s, ?_⟩
  rw [hostRecord_admitted h, e]
  exact answers_post rfl code data

theorem byte_ne_ok {code : ReplyCode} (h : code ≠ .ok) : code.byte ≠ ReplyCode.ok.byte := by
  revert h; cases code <;> decide

/-! ## Refusals on the host link (R164) -/

/-- The record refuses a request of a kind: its one body byte is a code other than OK. -/
def OutRecord.refuses (r : OutRecord) (k : ReqKind) : Prop :=
  r.origin = .request ∧ r.kind = k.byte + 0x80#8 ∧ ∃ code : ReplyCode, code ≠ .ok ∧ r.body = [code.byte]

/-- From `g` to `h` no refusal of a kind has become the newest record: the records stand, or the newest refuses nothing of
that kind. -/
def Hli.Unrefused (k : ReqKind) (g h : Hli) : Prop :=
  h.records = g.records ∨ ∃ (older : List OutRecord) (r : OutRecord), h.records = older ++ [r] ∧ ¬ r.refuses k

theorem unrefused_of_records {k : ReqKind} {g h : Hli} (e : h.records = g.records) : g.Unrefused k h := .inl e

theorem Hli.Unrefused.trans {k : ReqKind} {f g h : Hli} (fg : f.Unrefused k g) (gh : g.Unrefused k h) :
    f.Unrefused k h := by
  rcases gh with e | newest
  · rcases fg with e' | ⟨older, r, e', hr⟩
    · exact .inl (e.trans e')
    · exact .inr ⟨older, r, e.trans e', hr⟩
  · exact .inr newest

theorem records_posted (h : Hli) (r : OutRecord) : (h.posted r).records = h.records ++ [r] := by
  simp [Hli.records, Hli.posted]

theorem unrefused_posted {k : ReqKind} {r : OutRecord} (hr : ¬ r.refuses k) (g h : Hli) : g.Unrefused k (h.posted r) :=
  .inr ⟨_, r, records_posted h r, hr⟩

/-- A reply whose first byte is OK refuses nothing. -/
theorem not_refuses_ok (tag kind : Byte) (data : List Byte) (k : ReqKind) :
    ¬ (replyOf tag kind (ReplyCode.ok.byte :: data)).refuses k := by
  rintro ⟨-, -, code, hne, hb⟩
  exact byte_ne_ok hne (List.cons.inj hb).1.symm

/-- A reply to another kind of request refuses nothing of this kind. -/
theorem not_refuses_of_kind {tag kind : Byte} {k : ReqKind} (h : kind ≠ k.byte + 0x80#8) (body : List Byte) :
    ¬ (replyOf tag kind body).refuses k := fun hr => h hr.2.1

theorem post_ok_unrefused (tag : Byte) (j k : ReqKind) (data : List Byte) (g : Hli) (s : State) :
    g.Unrefused k (post tag j .ok data s).hli := by
  rw [post_hli]
  exact unrefused_posted (not_refuses_ok _ _ _ k) g s.hli

/-- The transmitter moves a ready reply or adds a notice: neither makes a refusal the newest record (R163). -/
theorem startTx_unrefused (k : ReqKind) (s : State) : s.hli.Unrefused k (startTx s).hli := by
  by_cases hr : s.hli.ready = []
  · unfold startTx
    split
    · exact .inl rfl
    · simp only [hr]
      split
      · exact .inl rfl
      · rename_i c _
        exact .inr ⟨[], s.notice c, by simp [Hli.records, hr], fun h => by simp [OutRecord.refuses, State.notice] at h⟩
  · exact .inl (startTx_ready_link hr).1

/-- A request answered with a code other than OK has made a refusal of its kind the newest record. -/
theorem Answers.not_unrefused {s t : State} {tag : Byte} {k : ReqKind} {code : ReplyCode}
    (h : Answers s t tag k code []) (hne : code ≠ .ok) : ¬ s.hli.Unrefused k t.hli := by
  rintro (e | ⟨older, r, e, hr⟩)
  · simpa using h.1.symm.trans e
  · have hlast := List.append_inj_right' (h.1.symm.trans e) rfl
    obtain rfl := List.singleton_inj.mp hlast
    exact hr ⟨rfl, rfl, code, hne, rfl⟩

/-! ## What an owner does with a request -/

/-- An owner's act on a request, from `s` to `t`: it refuses and changes nothing, or it sends no refusal. -/
def Decides (k : ReqKind) (tag : Byte) (s t : State) : Prop :=
  (∃ code, t = post tag k code [] s) ∨ s.hli.Unrefused k t.hli

theorem decides_refused (k : ReqKind) (tag : Byte) (code : ReplyCode) (s : State) : Decides k tag s (post tag k code [] s) :=
  .inl ⟨code, rfl⟩

theorem decides_ok (k : ReqKind) (tag : Byte) (data : List Byte) (s s' : State) :
    Decides k tag s (post tag k .ok data s') := .inr (post_ok_unrefused tag k k data s.hli s')

theorem decides_waits {k : ReqKind} {tag : Byte} {s t : State} (h : t.hli = s.hli) : Decides k tag s t :=
  .inr (unrefused_of_records (congrArg Hli.records h))

theorem reply_decides (k : ReqKind) (tag : Byte) (s : State) (a : Answer) : Decides k tag s (reply tag k s a) := by
  cases a with
  | error code => exact decides_refused k tag code s
  | ok done => exact decides_ok k tag done.1 s done.2

/-- DEVICE_RESTART's OK is the one record whose end brings the reset; it refuses nothing (R166). -/
theorem deviceRestart_decides (tag : Byte) (body : List Byte) (s : State) :
    Decides .deviceRestart tag s (actDeviceRestart tag body s) := by
  unfold actDeviceRestart
  split
  · refine .inr (.inr ⟨s.hli.records, replyRecord tag .deviceRestart .ok [] .restart, ?_, fun h => ?_⟩)
    · simp [enqueue, Hli.records]
    · simp [OutRecord.refuses, replyRecord] at h
  · exact decides_refused ..

/-- A CANCEL withdraws a move with OK, marks the retire operation in silence, or finds nothing (R59 to R61). -/
theorem cancel_decides (tag : Byte) (body : List Byte) (s : State) : Decides .cancel tag s (actCancel tag body s) := by
  unfold actCancel
  split
  · split
    · exact decides_refused ..
    · split
      · exact decides_ok ..
      · unfold cancelRetire
        split
        · split
          · exact decides_waits rfl
          · exact decides_refused ..
        · exact decides_refused ..
  · exact decides_refused ..

/-- A DROP_MOVE that has passed its checks is held in silence, or applied with OK (R48, R51). -/
theorem dropMove_decides (tag : Byte) (body : List Byte) (s : State) : Decides .dropMove tag s (actDropMove tag body s) := by
  unfold actDropMove
  split
  · unfold moveDrop
    split
    · exact decides_refused ..
    · split
      · exact decides_waits rfl
      · exact decides_ok ..
  · exact decides_refused ..

theorem beginsRetiring_unrefused {i : Slot} {u w : State} (h : BeginsRetiring i u w) :
    u.hli.Unrefused .dropRetire w.hli := by
  obtain ⟨-, -, -, -, -, -, -, hh⟩ := h
  rw [hh]
  cases (u.drop i).pendingMove with
  | none => exact unrefused_of_records rfl
  | some p => exact unrefused_posted (not_refuses_of_kind (by decide) _) _ _

/-- A retire operation that is not cancelled answers abandoned moves and ends with OK: it never refuses a DROP_RETIRE
(R55 to R58). -/
theorem retireGoesOn_unrefused {op : RetireOp} {u t : State} (h : RetireGoesOn op u t) :
    u.hli.Unrefused .dropRetire t.hli := by
  induction h with
  | ends op u _ => exact unrefused_posted (not_refuses_ok _ _ _ _) _ _
  | vacant op u t i _ _ _ _ ih => exact ih
  | idle op u w t i _ _ _ _ hb _ ih => exact (beginsRetiring_unrefused hb).trans ih
  | waits op u w i _ _ _ _ hb => exact (beginsRetiring_unrefused hb :)
  | stands op u _ _ => exact unrefused_of_records rfl

/-- A DROP_RETIRE that has passed its checks runs the retire operation (R54, R55). -/
theorem dropRetire_decides (tag : Byte) (body : List Byte) (s : State) :
    Decides .dropRetire tag s (actDropRetire tag body s) := by
  unfold actDropRetire
  split
  · rename_i first count
    split
    · exact decides_refused ..
    · split
      · exact decides_refused ..
      · exact .inr (retireGoesOn_unrefused
          (runRetire_goesOn retireFuel (.start tag first count) s rfl (by decide) (Nat.le_add_right _ _)))
  · exact decides_refused ..

/-- A LINE_STOP of a running line waits for its visit in silence, or is answered OK at once (R143). -/
theorem lineStop_decides (tag : Byte) (body : List Byte) (s : State) : Decides .lineStop tag s (actLineStop tag body s) := by
  unfold actLineStop
  split
  · split
    · unfold lineStop
      split
      · split
        · exact decides_waits (by simp)
        · exact decides_ok ..
      · exact decides_refused ..
    · exact decides_refused ..
  · exact decides_refused ..

/-- Every owner refuses a request with nothing changed, or sends no refusal. Five owners have acts of their own; all
others answer what their checks decide. -/
theorem ownerAct_decides (k : ReqKind) (tag : Byte) (body : List Byte) (s : State) :
    Decides k tag s (ownerAct k tag body s) := by
  cases k with
  | deviceRestart => exact deviceRestart_decides tag body s
  | cancel => exact cancel_decides tag body s
  | dropMove => exact dropMove_decides tag body s
  | dropRetire => exact dropRetire_decides tag body s
  | lineStop => exact lineStop_decides tag body s
  | _ => exact reply_decides ..

/-- Settles O15: the owner either posted the refusal on the admitted state, or no refusal can be the newest record. -/
theorem refusedRequestChangesNothing : Obligations.RefusedRequestChangesNothing := by
  intro s t k tag body code hadm hne hexec hans
  rw [exec_command, hostRecord_admitted hadm] at hexec
  obtain rfl := Host.Outcome.next.inj hexec
  rcases ownerAct_decides k tag body (admitEntry tag k s) with ⟨code', e⟩ | hun
  · rw [e]
    exact (answers_post rfl code' []).2
  · have hentry : s.hli.Unrefused k (admitEntry tag k s).hli := unrefused_of_records rfl
    exact absurd ((hentry.trans hun).trans (startTx_unrefused k _)) (hans.not_unrefused hne)

end Sys2Proof.Machine
end

section
/-!
DROP_SCAN: the pairs of its reply, slot by slot (R43).
-/

namespace Sys2Proof.Machine

/-- In a list of pairs written one after the other, the pair of the `n`th element stands at `2 * n`. -/
theorem getElem?_flatMap_pair {α β : Type} (f g : α → β) (l : List α) (n : Nat) :
    (l.flatMap (fun x => [f x, g x]))[2 * n]? = l[n]?.map f ∧
      (l.flatMap (fun x => [f x, g x]))[2 * n + 1]? = l[n]?.map g := by
  induction l generalizing n with
  | nil => simp
  | cons x xs ih =>
    cases n with
    | zero => simp
    | succ n => simpa [Nat.mul_add] using ih n

theorem getElem?_allSlots (i : Slot) : allSlots[i.val]? = some i := by simp [allSlots]

theorem scan_length (s : State) : s.scan.length = 128 := by simp [State.scan, allSlots, List.length_flatMap]

theorem scan_pair (s : State) (i : Slot) :
    s.scan[2 * i.val]? = some (s.drop i).state.code ∧ s.scan[2 * i.val + 1]? = some (s.drop i).generation := by
  simpa [State.scan, getElem?_allSlots] using
    getElem?_flatMap_pair (fun j => (s.drop j).state.code) (fun j => (s.drop j).generation) allSlots i.val

/-- Settles O27: an empty body is answered with the scan of the table, any other with BAD_LENGTH. -/
theorem dropScanListsTheTable : Obligations.DropScanListsTheTable := by
  intro s tag body hadm
  cases body with
  | nil =>
    obtain ⟨t, hexec, hans, hrest⟩ := exec_posts (k := .dropScan) (code := .ok) (data := s.scan) hadm rfl
    exact ⟨t, hexec, hrest, fun h => absurd rfl h, fun _ => ⟨s.scan, hans, scan_length s, scan_pair s⟩⟩
  | cons b rest =>
    obtain ⟨t, hexec, hans, hrest⟩ := exec_posts (k := .dropScan) (code := .badLength) (data := []) hadm rfl
    exact ⟨t, hexec, hrest, fun _ => hans, fun h => absurd h (List.cons_ne_nil b rest)⟩

end Sys2Proof.Machine
end

section
/-!
The place of a new message in the outbox (R83).
-/

namespace Sys2Proof.Machine

/-- A non-urgent message stands at the tail (R83). -/
theorem outboxInsert_nonUrgent {m : OutMsg} (h : m.urgent = false) (locked : Bool) (q : List OutMsg) :
    outboxInsert locked m q = q ++ [m] := by
  cases q <;> simp [outboxInsert, h]

/-- An urgent message goes behind a head that is locked or urgent, or that an urgent message follows. -/
theorem outboxInsert_behind {m x : OutMsg} (h : m.urgent = true) {locked : Bool} {xs : List OutMsg}
    (hb : locked = true ∨ x.urgent = true ∨ xs.any OutMsg.urgent = true) :
    outboxInsert locked m (x :: xs) = x :: outboxInsert false m xs := by
  have hb' : (locked || x.urgent || xs.any OutMsg.urgent) = true := by simpa [or_assoc] using hb
  rw [outboxInsert, if_neg (by simp [h]), if_pos hb']

/-- An urgent message goes to the head of an outbox in which nothing is locked or urgent. -/
theorem outboxInsert_ahead {m : OutMsg} (h : m.urgent = true) {q : List OutMsg} (hq : ∀ x ∈ q, x.urgent = false) :
    outboxInsert false m q = m :: q := by
  cases q with
  | nil => rfl
  | cons x xs =>
    obtain ⟨hx, hxs⟩ := List.forall_mem_cons.mp hq
    rw [outboxInsert, if_neg (by simp [h]), if_neg (by simpa [hx] using hxs)]

/-- `before` and `after` are what stands ahead of and behind an urgent message: nothing urgent behind it, a locked head
ahead of it, and directly ahead of it nothing, an urgent message, or the locked head alone. -/
def UrgentPlace (locked : Bool) (before after : List OutMsg) : Prop :=
  (∀ x ∈ after, x.urgent = false) ∧ (locked = true → before ++ after ≠ [] → before ≠ []) ∧
    (before = [] ∨ (∃ x, before.getLast? = some x ∧ x.urgent = true) ∨ locked = true ∧ before.length = 1)

/-- The place behind a head that is locked, or urgent, or ahead of some urgent message. -/
theorem UrgentPlace.cons {locked : Bool} {x : OutMsg} {before after : List OutMsg} (h : UrgentPlace false before after)
    (hb : locked = true ∨ x.urgent = true ∨ (before ++ after).any OutMsg.urgent = true) :
    UrgentPlace locked (x :: before) after := by
  obtain ⟨hafter, -, hlast⟩ := h
  refine ⟨hafter, fun _ _ => List.cons_ne_nil x before, .inr ?_⟩
  rcases hlast with rfl | ⟨y, hy, hu⟩ | ⟨hl, -⟩
  · rcases hb with hl | hx | hany
    · exact .inr ⟨hl, rfl⟩
    · exact .inl ⟨x, rfl, hx⟩
    · obtain ⟨y, hy, hu⟩ := List.any_eq_true.mp hany
      exact absurd hu (by simp [hafter y hy])
  · exact .inl ⟨y, by simp [List.getLast?_cons, hy], hu⟩
  · cases hl

/-- An urgent message stands directly behind the last message that is urgent or the locked head (R83). -/
theorem outboxInsert_urgent {m : OutMsg} (h : m.urgent = true) (locked : Bool) (q : List OutMsg) :
    ∃ before after, q = before ++ after ∧ outboxInsert locked m q = before ++ m :: after ∧
      UrgentPlace locked before after := by
  induction q generalizing locked with
  | nil => exact ⟨[], [], rfl, rfl, by simp, fun _ hq => absurd rfl hq, .inl rfl⟩
  | cons x xs ih =>
    by_cases hb : locked = true ∨ x.urgent = true ∨ xs.any OutMsg.urgent = true
    · obtain ⟨before, after, rfl, hins, hplace⟩ := ih false
      exact ⟨x :: before, after, rfl, by rw [outboxInsert_behind h hb, hins]; rfl, hplace.cons hb⟩
    · obtain ⟨hl, hx, hxs⟩ := by simpa only [not_or, Bool.not_eq_true] using hb
      have hq : ∀ y ∈ x :: xs, y.urgent = false := by simpa [hx] using hxs
      subst hl
      exact ⟨[], x :: xs, rfl, outboxInsert_ahead h hq, hq, fun hl => (Bool.false_ne_true hl).elim, .inl rfl⟩

/-- Settles O33: a non-urgent message by the tail rule, an urgent one by induction on the outbox. -/
theorem outboxInsertionFollowsUrgency : Obligations.OutboxInsertionFollowsUrgency := by
  refine fun locked m q => ⟨fun h => outboxInsert_nonUrgent h locked q, fun h => ?_⟩
  obtain ⟨before, after, rfl, hins, hafter, hlock, hlast⟩ := outboxInsert_urgent h locked q
  exact ⟨before, after, rfl, hins, hafter, hlock, hlast⟩

end Sys2Proof.Machine
end

section
/-!
An attempt that fails, and the visit that ends with its last one (R17, R125, R133): in which forms the failure comes, and
what the parts of the end of the visit leave of the line and of its drops.
-/

namespace Sys2Proof.Machine

/-! ## The forms of an attempt failure (R16, R17) -/

@[simp] theorem heard_drop (s : State) (l : Line) (got : List Byte) (ch : FieldChar) (i : Slot) :
    (s.heard l got ch).drop i = s.drop i := by simp [State.heard]

@[simp] theorem heard_retire (s : State) (l : Line) (got : List Byte) (ch : FieldChar) :
    (s.heard l got ch).retire = s.retire := by simp [State.heard]

@[simp] theorem heard_lc_other (s : State) (l : Line) (got : List Byte) (ch : FieldChar) :
    (s.heard l got ch).lc l.other = s.lc l.other := by simp [State.heard]

@[simp] theorem startTx_bcastQueue (s : State) (l : Line) : (startTx s).bcastQueue l = s.bcastQueue l := by
  simp [State.bcastQueue]

/-- A command that makes the attempt of a visit fail, with the state `u` in which the failure is judged: the reply timeout,
a gap inside the reply, or a failing character, alone or in a whole reply (R17). -/
def FailsAttempt (s u : State) (l : Line) (v : Visit) (cmd : Instr) : Prop :=
  u = s ∧ cmd = .replyTimeout l ∧ (s.lc l).receiver = .awaitingReply ∨
    u = s ∧ cmd = .intraFrameGapExpiry l ∧ (∃ got, (s.lc l).receiver = .receiving got) ∨
    ∃ (got : List Byte) (ch : FieldChar), v.expects got ∧ v.failsAt got ch ∧ u = s.heard l got ch ∧
      (s.receives l v got ∧ cmd = .fieldCharacterReceived l ch ∨
        s.awaits l v ∧ ∃ rest : List Byte, cmd = .replyFrameReceived l (got.map cleanChar ++ ch :: rest.map cleanChar))

/-- Every form of an attempt failure is judged by the one act of R125, and the transmitter then chooses. -/
theorem exec_failsAttempt {s u : State} {l : Line} {v : Visit} {cmd : Instr} (hreset : s.hli.inReset = false)
    (hvisit : (s.lc l).visit = some v) (h : FailsAttempt s u l v cmd) :
    exec cmd s = .next (startTx (attemptFailed l v u)) := by
  have hloud : ∀ act : State → State, loudEvent act s = startTx (act s) := fun act => by simp [loudEvent, hreset]
  rcases h with ⟨rfl, rfl, hr⟩ | ⟨rfl, rfl, got, hr⟩ | ⟨got, ch, hexp, hfail, rfl, ⟨hrec, rfl⟩ | ⟨hawait, rest, rfl⟩⟩
  · have hact : replyTimeout l u = attemptFailed l v u := by simp [replyTimeout, hvisit, hr]
    rw [← hact, ← hloud]; rfl
  · have hact : intraFrameGapExpiry l u = attemptFailed l v u := by simp [intraFrameGapExpiry, hvisit, hr, Receiver.inReply]
    rw [← hact, ← hloud]; rfl
  · rw [← takeReplyChar_fails l v got ch _ hexp hfail, ← fieldChar_receives l v s got ch hrec, ← hloud]; rfl
  · rw [← replyFrame_fails l v s hawait got rest ch hexp hfail, ← hloud]; rfl

/-- A failing character that is heard changes no drop, no retire operation and no other line. -/
theorem FailsAttempt.frame {s u : State} {l : Line} {v : Visit} {cmd : Instr} (h : FailsAttempt s u l v cmd) :
    SameDrops s u ∧ u.retire = s.retire ∧ u.lc l.other = s.lc l.other := by
  rcases h with ⟨rfl, -⟩ | ⟨rfl, -⟩ | ⟨got, ch, -, -, rfl, -⟩
  · exact ⟨fun _ => rfl, rfl, rfl⟩
  · exact ⟨fun _ => rfl, rfl, rfl⟩
  · exact ⟨fun j => heard_drop s l got ch j, heard_retire s l got ch, heard_lc_other s l got ch⟩

/-- The state in which the error of a failed attempt is counted: nothing but the error total of the visited drop differs from
the state in which the failure is judged. -/
theorem FailsAttempt.counted {s u : State} {l : Line} {v : Visit} {cmd : Instr} (h : FailsAttempt s u l v cmd) (n : Half) :
    let w := u.setDrop v.slot { s.drop v.slot with errorTotal := n }
    w.drop v.slot = { s.drop v.slot with errorTotal := n } ∧ SameDropsBut v.slot s w ∧ w.lc l = u.lc l ∧
      w.lc l.other = s.lc l.other ∧ w.retire = s.retire := by
  obtain ⟨hdrops, hretire, hother⟩ := h.frame
  exact ⟨by simp, fun j hj => by rw [setDrop_drop_ne (Ne.symm hj), hdrops j], by simp, by simpa using hother,
    by simpa using hretire⟩

/-! ## Fault entry: the line and its drops after failover (R151 to R154) -/

/-- The parts of a Line Controller that no collection touches: line state, configuration and consecutive-fail count. -/
def LineCtl.SameSupervision (c e : LineCtl) : Prop := e.state = c.state ∧ e.cfg = c.cfg ∧ e.failCount = c.failCount

theorem LineCtl.SameSupervision.trans {c d e : LineCtl} (h : c.SameSupervision d) (g : d.SameSupervision e) :
    c.SameSupervision e := ⟨g.1.trans h.1, g.2.1.trans h.2.1, g.2.2.trans h.2.2⟩

theorem ringRemove_supervision (c : LineCtl) (i : Slot) : c.SameSupervision (c.ringRemove i) := by
  unfold LineCtl.ringRemove
  split <;> exact ⟨rfl, rfl, rfl⟩

@[simp] theorem ringRemove_urgent (c : LineCtl) (i : Slot) : (c.ringRemove i).urgent = c.urgent := by
  unfold LineCtl.ringRemove
  split <;> rfl

/-- The drop of an entry does not stand in the ring of a line. -/
def Drop.OffRing (l : Line) (d : Drop) : Prop :=
  d.currentLine = l → d.state ≠ .joining ∧ d.state ≠ .online ∧ d.state ≠ .suspect

theorem ringDrop_eq_false (x : State) (l : Line) (i : Slot) : x.ringDrop l i = false ↔ (x.drop i).OffRing l := by
  simp [State.ringDrop, Drop.OffRing, and_assoc]

/-- From `d` to `e` no error was counted, and a drop that was not in flight is not in flight. -/
def Drop.SameRecord (d e : Drop) : Prop :=
  e.errorTotal = d.errorTotal ∧ (d.link.inFlight = false → e.link.inFlight = false)

theorem Drop.SameRecord.refl (d : Drop) : d.SameRecord d := ⟨rfl, id⟩

theorem Drop.SameRecord.trans {d e f : Drop} (h : d.SameRecord e) (g : e.SameRecord f) : d.SameRecord f :=
  ⟨g.1.trans h.1, g.2 ∘ h.2⟩

/-- A slot's turn takes its drop out of the ring of the failing line, and counts no error. -/
theorem FailoverTurn.slot {l : Line} {i : Slot} {x y : State} (h : FailoverTurn l i x y) :
    (y.drop i).OffRing l ∧ (x.drop i).SameRecord (y.drop i) := by
  obtain ⟨hskip, hturn⟩ := h
  cases hr : x.ringDrop l i with
  | false =>
    rw [hskip hr]
    exact ⟨(ringDrop_eq_false x l i).mp hr, .refl _⟩
  | true =>
    obtain ⟨-, -, -, -, -, -, hmoves, hstrands⟩ := hturn hr
    by_cases hm : x.failsOver l i
    · obtain ⟨⟨he, -⟩, -⟩ := hmoves hm
      rw [he]
      exact ⟨fun hl => absurd hl (other_ne l), rfl, fun _ => rfl⟩
    · obtain ⟨he, -⟩ := hstrands hm
      rw [he]
      exact ⟨fun _ => by simp, rfl, id⟩

/-- A slot's turn leaves the other drops, the store, the retire operation, and of the failing line the supervision and an
empty urgent queue. -/
theorem FailoverTurn.frame {l : Line} {i : Slot} {x y : State} (h : FailoverTurn l i x y) :
    SameDropsBut i x y ∧ y.store = x.store ∧ y.retire = x.retire ∧ (x.lc l).SameSupervision (y.lc l) ∧
      ((x.lc l).urgent = [] → (y.lc l).urgent = []) := by
  obtain ⟨hskip, hturn⟩ := h
  cases hr : x.ringDrop l i with
  | false =>
    rw [hskip hr]
    exact ⟨fun _ _ => rfl, rfl, rfl, ⟨rfl, rfl, rfl⟩, id⟩
  | true =>
    obtain ⟨hdrops, -, hstore, hretire, -, -, hmoves, hstrands⟩ := hturn hr
    refine ⟨hdrops, hstore, hretire, ?_⟩
    have hring := ringRemove_supervision (x.lc l) i
    by_cases hm : x.failsOver l i
    · obtain ⟨-, -, hlines⟩ := hmoves hm
      have hline := hlines l (ne_other l)
      rw [if_pos rfl] at hline
      rw [hline]
      exact ⟨hring, fun hu => by simp [LineCtl.urgentRemove, LineCtl.probeRemove, hu]⟩
    · obtain ⟨-, -, hline, -⟩ := hstrands hm
      rw [hline]
      exact ⟨hring, fun hu => by simp [hu]⟩

/-- From `u` to `x`, fault entry of a line with its failover up to slot `k`: the line is in FAULT with its count, with no
urgent and no broadcast work, no drop below the slot stands in its ring, and no drop has an error counted. -/
structure FailedOver (l : Line) (k : Nat) (u x : State) : Prop where
  fault : (x.lc l).state = .fault
  failCount : (x.lc l).failCount = (u.lc l).failCount
  urgent : (x.lc l).urgent = []
  bcasts : x.bcastQueue l = []
  retire : x.retire = u.retire
  offRing : ∀ i : Slot, i.val < k → (x.drop i).OffRing l
  record : ∀ i : Slot, (u.drop i).SameRecord (x.drop i)

theorem off_on (b : Bcast) (l : Line) : (b.off l).on l = false := by cases l <;> rfl

/-- Before the first turn. -/
theorem FaultBegun.failedOver {l : Line} {u x : State} (h : FaultBegun l u x) : FailedOver l 0 u x := by
  obtain ⟨hline, -, hdrops, -, hretire, -, hbcasts, -⟩ := h
  refine ⟨by rw [hline], by rw [hline], by rw [hline], ?_, hretire, fun i hi => absurd hi (Nat.not_lt_zero _),
    fun i => by rw [hdrops i]; exact .refl _⟩
  have hgone : ∀ b ∈ x.store.bcasts, b.on l = false := by
    rw [hbcasts]
    exact List.forall_mem_map.mpr fun b _ => off_on b l
  exact List.filter_eq_nil_iff.mpr fun b hb => by simp [hgone b hb]

/-- One more turn. -/
theorem FailedOver.turn {l : Line} {i : Slot} {u x y : State} (h : FailedOver l i.val u x) (ht : FailoverTurn l i x y) :
    FailedOver l (i.val + 1) u y := by
  obtain ⟨hdrops, hstore, hretire, ⟨hstate, -, hcount⟩, hurgent⟩ := ht.frame
  obtain ⟨hoff, hrecord⟩ := ht.slot
  refine ⟨hstate.trans h.fault, hcount.trans h.failCount, hurgent h.urgent, ?_, hretire.trans h.retire, fun j hj => ?_,
    fun j => ?_⟩
  · simpa [State.bcastQueue, hstore] using h.bcasts
  · by_cases e : j = i
    · exact e ▸ hoff
    · rw [hdrops j e]
      exact h.offRing j (by have := Fin.val_ne_of_ne e; omega)
  · by_cases e : j = i
    · subst e; exact (h.record j).trans hrecord
    · rw [hdrops j e]; exact h.record j

/-- Fault entry as a whole: all 64 slots have had their turn. -/
theorem EntersFault.failedOver {l : Line} {u t : State} (h : EntersFault l u t) : FailedOver l 64 u t := by
  obtain ⟨x, moved, stranded, hbegun, hturns, -, -, -, -, hdrops, hstore, hretire, -, hline, -, -⟩ := h
  have hall : ∀ k ≤ 64, FailedOver l k u (x k) := by
    intro k
    induction k with
    | zero => exact fun _ => hbegun.failedOver
    | succ k ih => exact fun hk => (ih (by omega)).turn (i := ⟨k, hk⟩) (hturns ⟨k, hk⟩)
  have hw := hall 64 le_rfl
  have hd : ∀ i, t.drop i = (x 64).drop i := fun i => by simp [State.drop, hdrops]
  refine ⟨by rw [hline]; exact hw.fault, by rw [hline]; exact hw.failCount, by rw [hline]; exact hw.urgent, ?_,
    hretire.trans hw.retire, fun i hi => by rw [hd]; exact hw.offRing i hi, fun i => by rw [hd]; exact hw.record i⟩
  simpa [State.bcastQueue, hstore] using hw.bcasts

/-! ## The failed visit to a drop that lives (R133) -/

/-- Parts 2 and 3 up to the report: the drop is in flight no longer, and else only its line's probe list has changed. -/
theorem landed_facts (u : State) (l : Line) (i : Slot) :
    (u.landed l i).drop i = { u.drop i with link := { (u.drop i).link with inFlight := false } } ∧
      SameDropsBut i u (u.landed l i) ∧ (u.lc l).SameSupervision ((u.landed l i).lc l) ∧
      (u.landed l i).lc l.other = u.lc l.other ∧ (u.landed l i).retire = u.retire := by
  refine ⟨by simp [State.landed], fun j hj => ?_, ?_, ?_, ?_⟩
  · rw [State.landed, setDrop_drop_ne (Ne.symm hj)]; split <;> simp
  · rw [State.landed, setDrop_lc]; split <;> simp [LineCtl.SameSupervision, LineCtl.probeRemove]
  · rw [State.landed, setDrop_lc]; split <;> simp
  · rw [State.landed, setDrop_retire]; split <;> simp

/-- The report of a failure gives the visited drop its miss count and its state by Table 18 (R24, R29). -/
theorem FailureReported.entry {i : Slot} {u a : State} (h : FailureReported i u a) :
    (u.drop i).SameRecord (a.drop i) ∧ (a.drop i).pendingMove = (u.drop i).pendingMove ∧
      (a.drop i).outbox = (u.drop i).outbox ∧
      (a.drop i).missCount.toNat = min 255 ((u.drop i).missCount.toNat + 1) ∧
      (a.drop i).state = (if 3 ≤ min 255 ((u.drop i).missCount.toNat + 1) ∨ (u.drop i).state = .lost then .lost
        else if (u.drop i).state = .joining then .joining else .suspect) := by
  obtain ⟨he, -⟩ := h
  rw [he]
  exact ⟨⟨rfl, fun hf => iteInduction (motive := fun k : LinkRecord => k.inFlight = false) (fun _ => hf) (fun _ => hf)⟩,
    rfl, rfl, byteOf_toNat (by omega), rfl⟩

/-- The report of a failure changes the collections of the drop's line alone. -/
theorem FailureReported.line {i : Slot} {u a : State} (h : FailureReported i u a) (m : Line) :
    (u.lc m).SameSupervision (a.lc m) ∧ (m ≠ (u.drop i).currentLine → a.lc m = u.lc m) := by
  obtain ⟨-, -, -, -, -, -, -, hline, -, -⟩ := h
  rw [hline m]
  exact iteInduction (motive := fun c => (u.lc m).SameSupervision c ∧ (m ≠ (u.drop i).currentLine → c = u.lc m))
    (fun hf => ⟨ringRemove_supervision (u.lc m) i, fun hm => absurd hf.2 hm⟩) (fun _ => ⟨⟨rfl, rfl, rfl⟩, fun _ => rfl⟩)

/-- Part 6 on a line that is not STOPPING: the line and nothing else. -/
theorem LineFreed.notStopping {l : Line} {o : Origin} {u t : State} (h : LineFreed l o u t) (hs : (u.lc l).state ≠ .stopping) :
    (t.lc l).visit = none ∧ (t.lc l).receiver = .notWaiting ∧ (u.lc l).SameSupervision (t.lc l) ∧
      (t.lc l).urgent = (u.lc l).urgent ∧ t.lc l.other = u.lc l.other ∧ SameDrops u t ∧ t.store = u.store ∧
      t.retire = u.retire := by
  rw [h.1 hs]
  refine ⟨by simp, by simp, by simp [LineCtl.SameSupervision], by simp, by simp, fun j => by simp, by simp, by simp⟩

/-- Parts 2 to 4 of a failed visit to a drop of the line that has no pending move, from `u` to `a`: the drop is reported, the
line's supervision stands, and no other drop, no other line and no retire operation is touched. -/
structure MissReported (l : Line) (i : Slot) (u a : State) : Prop where
  errorTotal : (a.drop i).errorTotal = (u.drop i).errorTotal
  landed : (a.drop i).link.inFlight = false
  outbox : (a.drop i).outbox = (u.drop i).outbox
  missCount : (a.drop i).missCount.toNat = min 255 ((u.drop i).missCount.toNat + 1)
  state : (a.drop i).state = (if 3 ≤ min 255 ((u.drop i).missCount.toNat + 1) ∨ (u.drop i).state = .lost then .lost
    else if (u.drop i).state = .joining then .joining else .suspect)
  others : SameDropsBut i u a
  line : (u.lc l).SameSupervision (a.lc l)
  otherLine : a.lc l.other = u.lc l.other
  retire : a.retire = u.retire

theorem FailureReported.missReported {l : Line} {i : Slot} {u a b : State} (h : FailureReported i (u.landed l i) a)
    (hmove : MoveSettled i a b) (hl : (u.drop i).currentLine = l) (hp : (u.drop i).pendingMove = none) :
    MissReported l i u b := by
  obtain ⟨hdrop, hothers, hline, hother, hretire⟩ := landed_facts u l i
  obtain ⟨hrecord, hpending, houtbox, hmiss, hstate⟩ := h.entry
  obtain ⟨hsame, hleave⟩ := And.intro (h.line l).1 (h.line l.other).2
  obtain ⟨-, -, -, hrest, -, -, hret, -, -, -⟩ := h
  rw [hdrop] at hrecord hpending houtbox hmiss hstate hleave
  obtain rfl := hmove.1 (hpending.trans hp)
  exact {
    errorTotal := hrecord.1
    landed := hrecord.2 rfl
    outbox := houtbox
    missCount := hmiss
    state := hstate
    others := fun j hj => (hrest j hj).trans (hothers j hj)
    line := hline.trans hsame
    otherLine := (hleave fun e => other_ne l (e.trans hl)).trans hother
    retire := hret.trans hretire }

/-- The consecutive-fail count after a failed visit (R149, Table 57). -/
def LineCtl.failsAfter (c : LineCtl) (v : Visit) : Nat :=
  c.failCount + if v.stateAtStart = .online ∨ v.stateAtStart = .suspect then 1 else 0

/-- The parts of the end of a failed visit to a drop of the line that has no pending move: the report, the fault check on
the count, and the line free. -/
theorem VisitClosed.parts {l : Line} {v : Visit} {u t : State} (h : VisitClosed l v none u t)
    (hl : (u.drop v.slot).currentLine = l) (hp : (u.drop v.slot).pendingMove = none) :
    ∃ b c : State, MissReported l v.slot u b ∧ LineFreed l v.origin c t ∧
      let counted := b.setLc l { b.lc l with failCount := (u.lc l).failsAfter v }
      ((u.lc l).failsAfter v < (u.lc l).cfg.faultThreshold.toNat → c = counted) ∧
        ((u.lc l).cfg.faultThreshold.toNat ≤ (u.lc l).failsAfter v → EntersFault l counted c) := by
  obtain ⟨a, b, c, hreport, hmove, hcheck, hfreed⟩ := h
  have hb : MissReported l v.slot u b := FailureReported.missReported hreport hmove hl hp
  obtain ⟨-, hcfg, hcount⟩ := hb.line
  have hfails : (b.lc l).failsAfter v = (u.lc l).failsAfter v := by simp only [LineCtl.failsAfter, hcount]
  refine ⟨b, c, hb, hfreed, ?_⟩
  rw [← hcfg, ← hfails]
  exact hcheck

/-- Below the fault threshold a RUNNING line is free and goes on with its count, and the visit has left no more than the
report. -/
theorem VisitClosed.belowThreshold {l : Line} {v : Visit} {u t : State} (h : VisitClosed l v none u t)
    (hl : (u.drop v.slot).currentLine = l) (hp : (u.drop v.slot).pendingMove = none) (hrun : (u.lc l).state = .running)
    (hlt : (u.lc l).failsAfter v < (u.lc l).cfg.faultThreshold.toNat) :
    (t.lc l).visit = none ∧ (t.lc l).receiver = .notWaiting ∧ (t.lc l).state = .running ∧
      (t.lc l).failCount = (u.lc l).failsAfter v ∧
      ∃ b, MissReported l v.slot u b ∧ SameDrops b t ∧ t.lc l.other = b.lc l.other ∧ t.retire = b.retire := by
  obtain ⟨b, c, hb, hfreed, hbelow, -⟩ := h.parts hl hp
  obtain rfl := hbelow hlt
  have hstate : (b.lc l).state = .running := hb.line.1.trans hrun
  obtain ⟨hvisit, hreceiver, ⟨hs, -, hc⟩, -, hother, hdrops, -, hretire⟩ := hfreed.notStopping (by simp [hstate])
  refine ⟨hvisit, hreceiver, ?_, ?_, b, hb, ?_, ?_, ?_⟩
  · simpa [hstate] using hs
  · simpa using hc
  · intro j; simpa using hdrops j
  · simpa using hother
  · simpa using hretire

/-- At the fault threshold the line is free and in FAULT after its failover, with its count; the visited drop has kept its
error total and is in flight no longer. -/
theorem VisitClosed.atThreshold {l : Line} {v : Visit} {u t : State} (h : VisitClosed l v none u t)
    (hl : (u.drop v.slot).currentLine = l) (hp : (u.drop v.slot).pendingMove = none)
    (hge : (u.lc l).cfg.faultThreshold.toNat ≤ (u.lc l).failsAfter v) :
    (t.lc l).visit = none ∧ (t.lc l).receiver = .notWaiting ∧ (t.lc l).state = .fault ∧
      (t.lc l).failCount = (u.lc l).failsAfter v ∧ (t.lc l).urgent = [] ∧ t.bcastQueue l = [] ∧ t.retire = u.retire ∧
      (t.drop v.slot).errorTotal = (u.drop v.slot).errorTotal ∧ (t.drop v.slot).link.inFlight = false ∧
      ∀ i : Slot, (t.drop i).OffRing l := by
  obtain ⟨b, c, hb, hfreed, -, hat⟩ := h.parts hl hp
  have hc := (hat hge).failedOver
  obtain ⟨hvisit, hreceiver, ⟨hs, -, hn⟩, hurgent, -, hdrops, hstore, hretire⟩ :=
    hfreed.notStopping (by simp [hc.fault])
  obtain ⟨herror, hflight⟩ := hc.record v.slot
  simp only [setLc_drop] at herror hflight
  refine ⟨hvisit, hreceiver, hs.trans hc.fault, hn.trans (hc.failCount.trans (by simp)), hurgent.trans hc.urgent, ?_,
    hretire.trans (hc.retire.trans ?_), ?_, ?_, fun i => ?_⟩
  · simpa [State.bcastQueue, hstore] using hc.bcasts
  · simpa using hb.retire
  · rw [hdrops, herror, hb.errorTotal]
  · rw [hdrops]; exact hflight hb.landed
  · rw [hdrops]; exact hc.offRing i i.isLt

/-- Settles O53: every form is the one act of R125, whose parts the lemmas above give; at the last attempt on a RUNNING line
the fault threshold decides between the report alone and fault entry. -/
theorem failedAttemptRetriesOrEndsTheVisit : Obligations.FailedAttemptRetriesOrEndsTheVisit := by
  intro s u l v cmd hreset hvisit hform d c errors miss counts fails
  have hform : FailsAttempt s u l v cmd := hform
  have hdrops := hform.frame.1
  have hexec := exec_failsAttempt hreset hvisit hform
  obtain ⟨hretry, hlive, hretiring⟩ := attemptFailed_facts l v u
  simp only [hdrops v.slot] at hretry hlive hretiring
  refine ⟨fun h => by rw [hexec, hretry h], fun h hs => ⟨_, hlive h hs, hexec⟩,
    fun h hs => ⟨_, hretiring h hs, hexec⟩, fun h hs hl hp hrun => ⟨_, hexec, ?_⟩⟩
  have hclosed := hlive h hs
  obtain ⟨hdrop, hwdrops, hline, hwother, hwretire⟩ := hform.counted errors
  generalize u.setDrop v.slot _ = w at hclosed hdrop hwdrops hline hwother hwretire
  generalize attemptFailed l v u = t at hclosed
  have hwl : (w.drop v.slot).currentLine = l := by rw [hdrop]; exact hl
  have hwp : (w.drop v.slot).pendingMove = none := by rw [hdrop]; exact hp
  have hfails : (w.lc l).failsAfter v = fails := by rw [hline]; rfl
  simp only [startTx_lc, startTx_drop, startTx_retire, startTx_bcastQueue]
  rcases Nat.lt_or_ge fails c.cfg.faultThreshold.toNat with hlt | hge
  · obtain ⟨hvis, hrecv, hst, hcount, b, hb, hbt, hbo, hbr⟩ :=
      hclosed.belowThreshold hwl hwp (by rw [hline]; exact hrun) (by rw [hfails, hline]; exact hlt)
    have hmiss := hb.missCount
    have hstate := hb.state
    rw [hdrop] at hmiss hstate
    rw [hbt v.slot]
    exact ⟨hvis, hrecv, hcount.trans hfails, by rw [hb.errorTotal, hdrop], hb.landed, hbr.trans (hb.retire.trans hwretire),
      fun _ => ⟨hst, fun j hj => by rw [startTx_drop, hbt j, hb.others j hj, hwdrops j hj],
        hbo.trans (hb.otherLine.trans hwother), hmiss, hstate, by rw [hb.outbox, hdrop]⟩,
      fun hge => absurd hlt (Nat.not_lt.mpr hge)⟩
  · obtain ⟨hvis, hrecv, hst, hcount, hurgent, hbcasts, hret, herror, hlanded, hoff⟩ :=
      hclosed.atThreshold hwl hwp (by rw [hfails, hline]; exact hge)
    exact ⟨hvis, hrecv, hcount.trans hfails, by rw [herror, hdrop], hlanded, hret.trans hwretire,
      fun hlt => absurd hge (Nat.not_le.mpr hlt), fun _ => ⟨hst, hurgent, hbcasts, hoff⟩⟩

end Sys2Proof.Machine
end


section
/-!
POLL_NOW: the checks of the request, one after the other, and its entry in the urgent queue (R22, R106, R116).
-/

namespace Sys2Proof.Machine

/-! ## A check among others: it decides the answer, or the next one does (R164) -/

theorem require_passes {α : Type} {ok : Bool} (h : ok = true) (code : ReplyCode) (next : Unit → Except ReplyCode α) :
    (require ok code >>= next) = next () := by subst h; rfl

theorem require_refuses {α : Type} {ok : Bool} (h : ok = false) (code : ReplyCode) (next : Unit → Except ReplyCode α) :
    (require ok code >>= next) = .error code := by subst h; rfl

/-! ## The entry check (R22) -/

theorem slotOf_above {slot : Byte} (h : 64 ≤ slot.toNat) : slotOf slot = none := dif_neg (Nat.not_lt.mpr h)

theorem slotOf_eq_some {slot : Byte} {i : Slot} (h : slot.toNat = i.val) : slotOf slot = some i := by
  simp [slotOf, h]

theorem entryCheck_above {slot : Byte} (h : 64 ≤ slot.toNat) (s : State) (gen : Byte) :
    s.entryCheck slot gen = .error .badValue := by simp [State.entryCheck, slotOf_above h]

theorem entryCheck_vacant {s : State} {slot : Byte} {i : Slot} (h : slot.toNat = i.val)
    (hv : (s.drop i).state = .vacant) (gen : Byte) : s.entryCheck slot gen = .error .notPresent := by
  simp [State.entryCheck, slotOf_eq_some h, hv]

theorem entryCheck_stale {s : State} {slot gen : Byte} {i : Slot} (h : slot.toNat = i.val)
    (hv : (s.drop i).state ≠ .vacant) (hg : (s.drop i).generation ≠ gen) : s.entryCheck slot gen = .error .stale := by
  simp [State.entryCheck, slotOf_eq_some h, hv, hg]

theorem entryCheck_passes {s : State} {slot gen : Byte} {i : Slot} (h : slot.toNat = i.val)
    (hv : (s.drop i).state ≠ .vacant) (hg : (s.drop i).generation = gen) : s.entryCheck slot gen = .ok i := by
  simp [State.entryCheck, slotOf_eq_some h, hv, hg]

/-! ## Entering the urgent queue (R106) -/

/-- A line takes urgent entries unless it is DISABLED or in FAULT. -/
theorem takesUrgent_iff (st : LineState) : st.takesUrgent = true ↔ ¬ (st = .disabled ∨ st = .fault) := by
  cases st <;> decide

/-- With the drop not queued and room in the queue, its entry is the append at the tail. -/
theorem urgentEnter_appends {c : LineCtl} {i : Slot} (hi : i ∉ c.urgent) (hroom : c.urgent.length < Config.urgentMax) :
    c.urgentEnter i = { c with urgent := c.urgent ++ [i] } :=
  if_neg (by simpa [hi] using Nat.not_le.mpr hroom)

/-- The OK of a drop that has entered the queue counts it. -/
theorem pollNowOk_entered {u : State} {l : Line} {i : Slot} (hi : i ∉ (u.lc l).urgent)
    (hroom : (u.lc l).urgent.length < Config.urgentMax) :
    pollNowOk l (u.modLc l (fun c => c.urgentEnter i)) =
      .ok ([byteOf ((u.lc l).urgent.length + 1)], u.setLc l { u.lc l with urgent := (u.lc l).urgent ++ [i] }) := by
  simp [pollNowOk, State.modLc, urgentEnter_appends hi hroom]

/-! ## The owner's act, check by check (R116) -/

theorem actPollNow_length {body : List Byte} (h : ∀ slot gen, body ≠ [slot, gen]) (tag : Byte) (u : State) :
    actPollNow tag body u = post tag .pollNow .badLength [] u := by
  unfold actPollNow
  split
  · exact absurd rfl (h _ _)
  · rfl

/-- What POLL_NOW answers about an entry that has passed the entry check, by the state of the line, that of the drop, and the
line's urgent queue. -/
theorem actPollNow_entryPassed {u : State} {slot gen : Byte} {i : Slot} (h : u.entryCheck slot gen = .ok i) (tag : Byte) :
    let l := (u.drop i).currentLine
    let c := u.lc l
    actPollNow tag [slot, gen] u =
      if c.state = .disabled ∨ c.state = .fault then post tag .pollNow .lineUnavailable [] u
      else if (u.drop i).state = .retiring then post tag .pollNow .wrongState [] u
      else if i ∈ c.urgent then post tag .pollNow .ok [byteOf c.urgent.length] u
      else if 8 ≤ c.urgent.length then post tag .pollNow .queueFull [] u
      else post tag .pollNow .ok [byteOf (c.urgent.length + 1)] (u.setLc l { c with urgent := c.urgent ++ [i] }) := by
  intro l c
  simp only [actPollNow, h]
  change reply tag .pollNow u (require c.state.takesUrgent .lineUnavailable >>= _) = _
  by_cases hshut : c.state = .disabled ∨ c.state = .fault
  · rw [if_pos hshut, require_refuses (by simpa [hshut] using takesUrgent_iff c.state)]
    rfl
  rw [if_neg hshut, require_passes ((takesUrgent_iff c.state).mpr hshut)]
  by_cases hret : (u.drop i).state = .retiring
  · rw [if_pos hret, require_refuses (by simp [hret])]
    rfl
  rw [if_neg hret, require_passes (by simp [hret])]
  by_cases hqueued : i ∈ c.urgent
  · rw [if_pos hqueued, if_pos (by simpa using hqueued)]
    rfl
  rw [if_neg hqueued, if_neg (by simpa using hqueued)]
  by_cases hfull : 8 ≤ c.urgent.length
  · rw [if_pos hfull, require_refuses (ok := decide (_ < Config.urgentMax)) (decide_eq_false (Nat.not_lt.mpr hfull))]
    rfl
  have hroom : c.urgent.length < Config.urgentMax := Nat.lt_of_not_le hfull
  rw [if_neg hfull, require_passes (decide_eq_true hroom), pollNowOk_entered hqueued hroom]
  rfl

/-! ## The answer to an admitted POLL_NOW (R164) -/

/-- An owner that posts a refusal on the admitted state turns the request away. -/
theorem turnedAway_of_post {s u : State} {tag : Byte} {k : ReqKind} {code : ReplyCode}
    (e : u = post tag k code [] (admitEntry tag k s)) : TurnedAway s (startTx u) tag k code := by
  subst e
  exact answers_post rfl code []

theorem turnedAway_of_entryCheck {s : State} {slot gen : Byte} {code : ReplyCode}
    (h : s.entryCheck slot gen = .error code) (tag : Byte) :
    TurnedAway s (startTx (actPollNow tag [slot, gen] (admitEntry tag .pollNow s))) tag .pollNow code := by
  have hadmitted : (admitEntry tag .pollNow s).entryCheck slot gen = .error code := h
  refine turnedAway_of_post ?_
  simp only [actPollNow, hadmitted]
  rfl

/-- Settles O48: the entry check decides first, then the state of the line, that of the drop, and the urgent queue; only the
append changes anything, and it changes the queue alone. -/
theorem pollNowEntersTheUrgentQueue : Obligations.PollNowEntersTheUrgentQueue := by
  intro s tag body hadm
  refine ⟨startTx (actPollNow tag body (admitEntry tag .pollNow s)),
    (exec_command .pollNow tag body s).trans (congrArg _ (hostRecord_admitted hadm .pollNow)), ?_⟩
  split
  next slot gen =>
    refine ⟨fun habove => turnedAway_of_entryCheck (entryCheck_above habove s gen) tag, ?_⟩
    intro i hslot d c shut
    refine ⟨fun hv => turnedAway_of_entryCheck (entryCheck_vacant hslot hv gen) tag,
      fun hv hg => turnedAway_of_entryCheck (entryCheck_stale hslot hv hg) tag, fun hv hg => ?_⟩
    have act := actPollNow_entryPassed (entryCheck_passes (s := admitEntry tag .pollNow s) hslot hv hg) tag
    simp only [admitEntry_drop, admitEntry_lc] at act
    refine ⟨fun hshut => turnedAway_of_post (by rw [act, if_pos hshut]),
      fun hopen hret => turnedAway_of_post (by rw [act, if_neg hopen, if_pos hret]), fun hopen hret => ⟨?_, ?_, ?_⟩⟩
    · intro hqueued
      rw [act, if_neg hopen, if_neg hret, if_pos hqueued]
      exact answers_post rfl .ok _
    · intro hfresh hfull
      exact turnedAway_of_post (by rw [act, if_neg hopen, if_neg hret, if_neg hfresh, if_pos hfull])
    · intro hfresh hroom
      rw [act, if_neg hopen, if_neg hret, if_neg hfresh, if_neg (Nat.not_le.mpr hroom)]
      obtain ⟨hans, hrest⟩ := answers_post (setLc_hli (admitEntry tag .pollNow s) d.currentLine
        { c with urgent := c.urgent ++ [i] }) .ok [byteOf (c.urgent.length + 1)]
      exact ⟨hans, hrest.trans (setHli_setLc (admitEntry tag .pollNow s) s.hli _ _).symm⟩
  next hlength => exact turnedAway_of_post (actPollNow_length hlength tag _)

end Sys2Proof.Machine
end

section
/-!
LINE_STATUS and LINE_CONFIG: the line a request names, the snapshot of it, and the checks before its configuration is
replaced (R141, R147).
-/

namespace Sys2Proof.Machine

/-! ## The line a byte names (R178, R179) -/

theorem lineOf_above {b : Byte} (h : 1 < b.toNat) : lineOf b = none := by
  have hzero : b ≠ 0x00#8 := by rintro rfl; exact absurd h (by decide)
  have hone : b ≠ 0x01#8 := by rintro rfl; exact absurd h (by decide)
  simp [lineOf, hzero, hone]

@[simp] theorem lineOf_lineByte (l : Line) : lineOf (lineByte l) = some l := by cases l <;> rfl

/-- A byte above 1 names no line: it decides the answer, whatever is checked next. -/
theorem lineCheck_refuses {α : Type} {b : Byte} (h : 1 < b.toNat) (next : Line → Except ReplyCode α) :
    (lineCheck b >>= next) = .error .badValue := by
  rw [lineCheck, lineOf_above h]
  rfl

theorem lineCheck_passes {α : Type} (l : Line) (next : Line → Except ReplyCode α) :
    (lineCheck (lineByte l) >>= next) = next l := by
  rw [lineCheck, lineOf_lineByte]
  rfl

/-! ## LINE_STATUS (R147) -/

theorem actLineStatus_length {body : List Byte} (h : ∀ line, body ≠ [line]) (tag : Byte) (u : State) :
    actLineStatus tag body u = post tag .lineStatus .badLength [] u := by
  unfold actLineStatus
  split
  · exact absurd rfl (h _)
  · rfl

theorem actLineStatus_above {line : Byte} (h : 1 < line.toNat) (tag : Byte) (u : State) :
    actLineStatus tag [line] u = post tag .lineStatus .badValue [] u := by
  simp only [actLineStatus, lineCheck_refuses h, reply]

theorem actLineStatus_line (l : Line) (tag : Byte) (u : State) :
    actLineStatus tag [lineByte l] u = post tag .lineStatus .ok (u.lineSnapshot l) u := by
  rw [actLineStatus, lineCheck_passes]
  rfl

/-- The snapshot reads nothing of the host link: the admitted request does not show in it. -/
theorem lineSnapshot_admitEntry (tag : Byte) (k : ReqKind) (s : State) (l : Line) :
    (admitEntry tag k s).lineSnapshot l = s.lineSnapshot l := by
  simp [State.lineSnapshot, State.bcastQueue]

/-- Settles O47: the owner posts the snapshot, or the one check that fails, on the admitted state. -/
theorem lineStatusShowsTheLine : Obligations.LineStatusShowsTheLine := by
  intro s tag body hadm
  refine ⟨startTx (actLineStatus tag body (admitEntry tag .lineStatus s)),
    (exec_command .lineStatus tag body s).trans (congrArg _ (hostRecord_admitted hadm .lineStatus)), ?_⟩
  split
  next line =>
    refine ⟨fun habove => turnedAway_of_post (actLineStatus_above habove tag _), ?_⟩
    rintro l rfl c
    rw [actLineStatus_line, lineSnapshot_admitEntry]
    obtain ⟨hans, hrest⟩ := answers_post (tag := tag) (k := .lineStatus) rfl .ok (s.lineSnapshot l)
    exact ⟨hrest, hans⟩
  next hlength => exact turnedAway_of_post (actLineStatus_length hlength tag _)

/-! ## LINE_CONFIG, check by check (R141) -/

theorem configurable_iff (c : LineCtl) :
    c.configurable = true ↔ c.state = .disabled ∨ c.state = .stopped ∧ c.bcastFrame = none := by
  simp [LineCtl.configurable]

theorem lineCfg_good_iff (g : LineCfg) :
    g.good = true ↔ g.rateCode.toNat ≤ 5 ∧ 2 ≤ g.gap.toNat ∧ g.gap.toNat ≤ 32 ∧ 1 ≤ g.probeInterval.toNat ∧
      2 ≤ g.faultThreshold.toNat ∧ g.faultThreshold.toNat ≤ 32 := by
  simp [LineCfg.good, and_assoc]

/-- The line with a new configuration: the five items, and the probe countdown reloaded. -/
def LineCtl.configured (c : LineCtl) (g : LineCfg) : LineCtl := { c with cfg := g, probeCountdown := g.probeInterval }

theorem actLineConfig_length {body : List Byte}
    (h : ∀ line rate gap period probe threshold, body ≠ [line, rate, gap, period, probe, threshold]) (tag : Byte)
    (u : State) : actLineConfig tag body u = post tag .lineConfig .badLength [] u := by
  unfold actLineConfig
  split
  · exact absurd rfl (h _ _ _ _ _ _)
  · rfl

theorem actLineConfig_above {line : Byte} (h : 1 < line.toNat) (rate gap period probe threshold tag : Byte) (u : State) :
    actLineConfig tag [line, rate, gap, period, probe, threshold] u = post tag .lineConfig .badValue [] u := by
  simp only [actLineConfig, lineCheck_refuses h, reply]

/-- What LINE_CONFIG answers about a line, by the state of the line and then by the values. -/
theorem actLineConfig_line (l : Line) (g : LineCfg) (tag : Byte) (u : State) :
    actLineConfig tag [lineByte l, g.rateCode, g.gap, g.roundPeriod, g.probeInterval, g.faultThreshold] u =
      if (u.lc l).configurable = true then
        if g.good = true then post tag .lineConfig .ok [] (u.setLc l ((u.lc l).configured g))
        else post tag .lineConfig .badValue [] u
      else post tag .lineConfig .wrongState [] u := by
  simp only [actLineConfig, lineCheck_passes]
  by_cases hstate : (u.lc l).configurable = true
  · rw [if_pos hstate, require_passes hstate]
    by_cases hgood : g.good = true
    · rw [if_pos hgood, require_passes hgood]
      rfl
    · rw [if_neg hgood, require_refuses (Bool.eq_false_of_not_eq_true hgood)]
      rfl
  · rw [if_neg hstate, require_refuses (Bool.eq_false_of_not_eq_true hstate)]
    rfl

/-- An OK posted with one line replaced on the admitted state answers the request, and that line is all it changes. -/
theorem answers_post_setLc (s : State) (tag : Byte) (k : ReqKind) (l : Line) (c : LineCtl) (data : List Byte) :
    let t := startTx (post tag k .ok data ((admitEntry tag k s).setLc l c))
    Answers s t tag k .ok data ∧ t.setHli s.hli = s.setLc l c := by
  obtain ⟨hans, hrest⟩ := answers_post (setLc_hli (admitEntry tag k s) l c) .ok data
  exact ⟨hans, hrest.trans (setHli_setLc (admitEntry tag k s) s.hli l c).symm⟩

/-- Settles O43: the line decides first, then its state, then the values; only a configuration that passes is stored, on
that line alone. -/
theorem lineConfigFollowsItsChecks : Obligations.LineConfigFollowsItsChecks := by
  intro s tag body hadm
  refine ⟨startTx (actLineConfig tag body (admitEntry tag .lineConfig s)),
    (exec_command .lineConfig tag body s).trans (congrArg _ (hostRecord_admitted hadm .lineConfig)), ?_⟩
  split
  next line rate gap period probe threshold =>
    intro good
    refine ⟨fun habove => turnedAway_of_post (actLineConfig_above habove rate gap period probe threshold tag _), ?_⟩
    rintro l rfl accepting
    have act := actLineConfig_line l ⟨rate, gap, period, probe, threshold⟩ tag (admitEntry tag .lineConfig s)
    simp only [admitEntry_lc, configurable_iff, lineCfg_good_iff] at act
    refine ⟨fun hshut => turnedAway_of_post (act.trans (if_neg hshut)),
      fun hopen hbad => turnedAway_of_post (act.trans ((if_pos hopen).trans (if_neg hbad))), fun hopen hgood => ?_⟩
    rw [act, if_pos hopen, if_pos hgood]
    exact answers_post_setLc s tag .lineConfig l _ []
  next hlength => exact turnedAway_of_post (actLineConfig_length hlength tag _)

end Sys2Proof.Machine
end

section
/-!
DEVICE_INFO: the identification of the part and its capacities (R165).
-/

namespace Sys2Proof.Machine

/-- The capacities on the link: one byte of slots, two bytes each of cells and of records, high byte first, one byte of
lines (R178). -/
theorem capacities_bytes :
    byteOf Config.dropSlots = 64#8 ∧ halfBytes Config.cells = [2#8, 0#8] ∧ halfBytes Config.records = [1#8, 0#8] ∧
      byteOf Config.fieldLines = 2#8 := by decide

/-- An empty body is answered with the family, the part, the revision and the capacities. -/
theorem actDeviceInfo_nil (tag : Byte) (u : State) :
    actDeviceInfo tag [] u =
      post tag .deviceInfo .ok [0x52#8, 0x64#8, 0x01#8, 64#8, 2#8, 0#8, 1#8, 0#8, 2#8] u := by
  obtain ⟨hslots, hcells, hrecords, hlines⟩ := capacities_bytes
  rw [actDeviceInfo, require_passes List.isEmpty_nil, hslots, hcells, hrecords, hlines]
  rfl

theorem actDeviceInfo_length {body : List Byte} (h : body ≠ []) (tag : Byte) (u : State) :
    actDeviceInfo tag body u = post tag .deviceInfo .badLength [] u := by
  rw [actDeviceInfo, require_refuses (List.isEmpty_eq_false_iff.mpr h)]
  rfl

/-- Settles O18: the length of the body decides the answer, and either way the owner only posts a reply on the admitted
state. -/
theorem deviceInfoIdentifiesThePart : Obligations.DeviceInfoIdentifiesThePart := by
  intro s tag body hadm
  split
  next hempty =>
    subst hempty
    obtain ⟨t, hexec, hans, hrest⟩ := exec_posts (k := .deviceInfo) hadm (actDeviceInfo_nil tag _)
    exact ⟨t, hexec, hrest, hans⟩
  next hlength =>
    obtain ⟨t, hexec, hans, hrest⟩ := exec_posts (k := .deviceInfo) hadm (actDeviceInfo_length hlength tag _)
    exact ⟨t, hexec, hrest, hans⟩

end Sys2Proof.Machine
end

section
/-!
What a step can do to the parts that the invariants speak of (R20, R33, R73, R106, R160): a property that the few acts named in
`StepInvariant` keep is kept by every step.
-/

namespace Sys2Proof.Machine

/-! ## What an invariant reads -/

/-- Two states that agree in all that the invariants read: the queue, the drops, the store, the lines, and the tags and kinds
of the outstanding requests. -/
structure SameCore (s t : State) : Prop where
  pending : t.pending = s.pending
  drops : t.drops = s.drops
  store : t.store = s.store
  lcA : t.lcA = s.lcA
  lcB : t.lcB = s.lcB
  requests : t.hli.requests = s.hli.requests

theorem SameCore.drop {s t : State} (h : SameCore s t) (i : Slot) : t.drop i = s.drop i := by
  simp [State.drop, h.drops]

theorem SameCore.lc {s t : State} (h : SameCore s t) (l : Line) : t.lc l = s.lc l := by
  cases l
  · exact h.lcA
  · exact h.lcB

theorem startTx_requests (s : State) : (startTx s).hli.requests = s.hli.requests := by
  by_cases hr : s.hli.ready = []
  · unfold startTx
    split
    · rfl
    · simp only [hr]
      split <;> simp [Hli.requests]
  · exact (startTx_ready_link hr).2.1

theorem posted_requests (h : Hli) (r : OutRecord) : (h.posted r).requests = h.requests := by
  simp only [Hli.requests, Hli.posted, List.map_map]
  apply List.map_congr_left
  intro o _
  simp only [Function.comp]
  split <;> rfl

theorem post_requests (tag : Byte) (k : ReqKind) (code : ReplyCode) (data : List Byte) (s : State) :
    (post tag k code data s).hli.requests = s.hli.requests := by
  rw [post_hli, posted_requests]

theorem sameCore_startTx (s : State) : SameCore s (startTx s) := by
  constructor <;> simp [startTx_requests]

theorem sameCore_post (tag : Byte) (k : ReqKind) (code : ReplyCode) (data : List Byte) (s : State) :
    SameCore s (post tag k code data s) := by
  constructor <;> simp [post_requests]

theorem sameCore_setRetire (r : Option RetireOp) (s : State) : SameCore s (s.setRetire r) := by
  constructor <;> simp

theorem sameCore_setAu (a : Attn) (s : State) : SameCore s (s.setAu a) := by constructor <;> simp

theorem sameCore_setHli {h : Hli} {s : State} (e : h.outstanding = s.hli.outstanding) : SameCore s (s.setHli h) := by
  constructor <;> simp [Hli.requests, e]

theorem sameCore_immediate (tag kind : Byte) (code : ReplyCode) (s : State) : SameCore s (immediate tag kind code s) := by
  unfold immediate
  split
  · exact sameCore_setAu _ s
  · exact sameCore_setHli rfl

/-! ## What the acts do to an entry and to a line -/

/-- An entry that replaces another without a change in the cells and records of its messages, and with none where it does
not live. -/
def Drop.Carries (d e : Drop) : Prop :=
  d.emptyUnlessLive → e.chainCellNos = d.chainCellNos ∧ e.messageRecs = d.messageRecs ∧ e.emptyUnlessLive

/-- An entry that replaces another and whose messages hold those cells and records less. -/
def Drop.Releases (d e : Drop) (cells recs : List Nat) : Prop :=
  d.emptyUnlessLive →
    d.chainCellNos.Perm (cells ++ e.chainCellNos) ∧ d.messageRecs.Perm (recs ++ e.messageRecs) ∧ e.emptyUnlessLive

/-- An entry that replaces another and whose messages hold those cells and records more. -/
def Drop.Gains (d e : Drop) (cells recs : List Nat) : Prop :=
  e.chainCellNos.Perm (cells ++ d.chainCellNos) ∧ e.messageRecs.Perm (recs ++ d.messageRecs) ∧ e.state.live = true

/-- Every place of a new entry for a slot was its own before or is taken by no other entry; a VACANT one reserves none. -/
def State.RoomFor (s : State) (i : Slot) (e : Drop) : Prop :=
  ((s.drop i).state = .vacant → (s.drop i).pendingMove = none) →
    (∀ l a, e.holds l a = true → (s.drop i).holds l a = true ∨ s.placeTaken l a (some i) = false) ∧
      (e.state = .vacant → e.pendingMove = none)

/-- The urgent queue of a line is within its bound, each slot once (R106). -/
def LineCtl.UrgentGood (c : LineCtl) : Prop := c.urgent.length ≤ Config.urgentMax ∧ c.urgent.Nodup

/-- An entry at the same place, with the same reservation, takes no room. -/
theorem roomFor_same_place {s : State} {i : Slot} {e : Drop} (hs : e.state = .vacant ↔ (s.drop i).state = .vacant)
    (hl : e.currentLine = (s.drop i).currentLine) (ha : e.address = (s.drop i).address)
    (hp : e.pendingMove = (s.drop i).pendingMove) : s.RoomFor i e := by
  refine fun hold => ⟨fun l a h => .inl ?_, fun hv => by rw [hp]; exact hold (hs.1 hv)⟩
  have hne : (e.state != .vacant) = ((s.drop i).state != .vacant) := by
    by_cases hv : e.state = .vacant
    · simp [hv, hs.1 hv]
    · have hv' : (s.drop i).state ≠ .vacant := fun x => hv (hs.2 x)
      simp [bne, hv, hv']
  simpa [Drop.holds, hne, hl, ha, hp] using h

/-- An entry that keeps its place and gives up its reservation takes no room. -/
theorem roomFor_unreserved {s : State} {i : Slot} {e : Drop} (hs : e.state = .vacant ∨ (s.drop i).state ≠ .vacant)
    (hl : e.state = .vacant ∨ e.currentLine = (s.drop i).currentLine ∧ e.address = (s.drop i).address)
    (hp : e.pendingMove = none) : s.RoomFor i e := by
  refine fun _ => ⟨fun l a h => .inl ?_, fun _ => hp⟩
  simp only [Drop.holds, hp, Bool.or_false, Bool.and_eq_true, bne_iff_ne, ne_eq] at h
  obtain ⟨hv, hplace⟩ := h
  obtain ⟨hl, ha⟩ := hl.resolve_left hv
  simp [Drop.holds, hs.resolve_left hv, ← hl, ← ha, hplace]

theorem State.RoomFor.congr {s t : State} {i : Slot} {e : Drop} (h : s.RoomFor i e) (hd : ∀ j, t.drop j = s.drop j) :
    t.RoomFor i e := by
  simpa [State.RoomFor, State.placeTaken, hd] using h

theorem chainCellNos_empty {d : Drop} (h : d.outbox = [] ∧ d.inbox = [] ∧ d.partialMsg = none) :
    d.chainCellNos = [] ∧ d.messageRecs = [] := by
  obtain ⟨ho, hi, hp⟩ := h
  simp [Drop.chainCellNos, Drop.messageRecs, Drop.inboundCells, Drop.outboxCells, Drop.inboundRecs, Drop.outboxRecs, ho, hi, hp]

/-- An entry with the same queues carries the messages, when it lives or the old one does not. -/
theorem carries_same_queues {d e : Drop} (hs : e.state.live = true ∨ d.state.live = false) (ho : e.outbox = d.outbox)
    (hi : e.inbox = d.inbox) (hp : e.partialMsg = d.partialMsg) : d.Carries e := by
  intro h
  refine ⟨by simp [Drop.chainCellNos, Drop.inboundCells, Drop.outboxCells, ho, hi, hp],
    by simp [Drop.messageRecs, Drop.inboundRecs, Drop.outboxRecs, ho, hi, hp], ?_⟩
  rcases hs with hs | hs
  · exact .inl hs
  · have hd := h.resolve_left (by simp [hs])
    exact .inr (by rw [ho, hi, hp]; exact hd)

/-- An entry that does not live carries its messages into any other that holds none. -/
theorem carries_empty {d e : Drop} (hd : d.state.live = false) (he : e.outbox = [] ∧ e.inbox = [] ∧ e.partialMsg = none) :
    d.Carries e := by
  intro h
  obtain ⟨hcells, hrecs⟩ := chainCellNos_empty (h.resolve_left (by simp [hd]))
  obtain ⟨hcells', hrecs'⟩ := chainCellNos_empty he
  exact ⟨by rw [hcells, hcells'], by rw [hrecs, hrecs'], .inr he⟩

theorem urgentGood_sublist {c e : LineCtl} (h : e.urgent.Sublist c.urgent) (g : c.UrgentGood) : e.UrgentGood :=
  ⟨h.length_le.trans g.1, g.2.sublist h⟩

theorem urgentGood_enter (c : LineCtl) (i : Slot) (g : c.UrgentGood) : (c.urgentEnter i).UrgentGood := by
  unfold LineCtl.urgentEnter
  split
  · exact g
  · rename_i h
    simp only [Bool.or_eq_true, List.contains_eq_mem, decide_eq_true_eq, not_or, Nat.not_le] at h
    refine ⟨by simpa using h.2, ?_⟩
    simpa [List.nodup_append, g.2] using fun a ha (e : a = i) => h.1 (e ▸ ha)

theorem ringRemove_keeps_urgent (c : LineCtl) (i : Slot) : (c.ringRemove i).urgent = c.urgent := by
  simp

theorem leave_urgent (c : LineCtl) (i : Slot) :
    (((c.ringRemove i).probeRemove i).urgentRemove i).urgent = c.urgent.erase i := by
  simp [LineCtl.urgentRemove, LineCtl.probeRemove]

/-! ## An invariant and the acts that must keep it -/

/-- A property of a state that reads no more than `SameCore`, and that the acts on which all others rest keep. -/
structure StepInvariant (P : State → Prop) : Prop where
  reset {s : State} (straps : Straps) (n : Nat) : P s → P (resetBlocks straps n s)
  same {s t : State} : P s → SameCore s t → P t
  admits {s : State} {tag : Byte} (k : ReqKind) : P s → tag ≠ 0#8 → s.hli.tagInUse tag = false →
    s.hli.outstanding.length < Config.outstandingMax → P (admitEntry tag k s)
  releases {s : State} (r : OutRecord) : P s → P (s.setHli (freeTx r s.hli))
  line {s : State} {l : Line} {c : LineCtl} : P s → ((s.lc l).UrgentGood → c.UrgentGood) → P (s.setLc l c)
  drop {s : State} {i : Slot} {e : Drop} : P s → (s.drop i).Carries e → s.RoomFor i e → P (s.setDrop i e)
  frees {s : State} {i : Slot} {e : Drop} {cells recs : List Nat} : P s → (s.drop i).Releases e cells recs →
    s.RoomFor i e → P (freeAll cells recs (s.setDrop i e))
  takes {s : State} {i : Slot} {e : Drop} {cells recs : Nat} : P s → cells ≤ s.store.freeCells.length →
    recs ≤ s.store.freeRecords.length → (s.drop i).Gains e (s.store.freeCells.take cells) (s.store.freeRecords.take recs) →
    s.RoomFor i e → P (takeAway cells recs (s.setDrop i e))
  bcasts {s : State} {bs : List Bcast} : P s → bs.map (fun b => b.cell.no) = s.store.bcasts.map (fun b => b.cell.no) →
    bs.map Bcast.recNo = s.store.bcasts.map Bcast.recNo → P (dropDone bs s)
  queues {s : State} {a b : Bool} {t : Target} {payload : List Byte} : P s → (a = true ∨ b = true) →
    s.store.freeCells ≠ [] → s.store.freeRecords ≠ [] → P (queueBroadcast a b t payload s)
  marks {s : State} {h r l : Half} : P s → marksGood h r l = true → P (setMarks h r l s)

end Sys2Proof.Machine
end

section
/-!
Every step keeps a `StepInvariant`: one lemma for each shared operation, each act of a field line and each owner of a request.
-/

namespace Sys2Proof.Machine

variable {P : State → Prop}

/-! ## Entries and lines -/

/-- An entry with the same state, place, reservation and messages. -/
structure Drop.SameHolding (d e : Drop) : Prop where
  state : e.state = d.state
  currentLine : e.currentLine = d.currentLine
  address : e.address = d.address
  pendingMove : e.pendingMove = d.pendingMove
  outbox : e.outbox = d.outbox
  inbox : e.inbox = d.inbox
  partialMsg : e.partialMsg = d.partialMsg

theorem Drop.SameHolding.carries {d e : Drop} (h : d.SameHolding e) : d.Carries e :=
  carries_same_queues (by rw [h.state]; exact (Bool.eq_false_or_eq_true _)) h.outbox h.inbox h.partialMsg

theorem Drop.SameHolding.roomFor {s : State} {i : Slot} {e : Drop} (h : (s.drop i).SameHolding e) : s.RoomFor i e :=
  roomFor_same_place (by rw [h.state]) h.currentLine h.address h.pendingMove

theorem StepInvariant.sameHolding (inv : StepInvariant P) {s : State} {i : Slot} {e : Drop} (h : P s)
    (he : (s.drop i).SameHolding e) : P (s.setDrop i e) := inv.drop h he.carries he.roomFor

theorem StepInvariant.modLink (inv : StepInvariant P) {s : State} (i : Slot) (f : LinkRecord → LinkRecord) (h : P s) :
    P (s.modLink i f) := inv.sameHolding h ⟨rfl, rfl, rfl, rfl, rfl, rfl, rfl⟩

/-- A change of state among those that live, with the same place and messages. -/
theorem StepInvariant.livingState (inv : StepInvariant P) {s : State} {i : Slot} {e : Drop} (h : P s)
    (hd : (s.drop i).state.live = true) (he : e.state.live = true) (hl : e.currentLine = (s.drop i).currentLine)
    (ha : e.address = (s.drop i).address) (hp : e.pendingMove = (s.drop i).pendingMove) (ho : e.outbox = (s.drop i).outbox)
    (hi : e.inbox = (s.drop i).inbox) (hm : e.partialMsg = (s.drop i).partialMsg) : P (s.setDrop i e) := by
  refine inv.drop h (carries_same_queues (.inl he) ho hi hm) (roomFor_same_place ?_ hl ha hp)
  constructor
  · intro hv; simp [hv, DropState.live] at he
  · intro hv; simp [hv, DropState.live] at hd

theorem StepInvariant.lineUrgent (inv : StepInvariant P) {s : State} {l : Line} {c : LineCtl} (h : P s)
    (hc : c.urgent.Sublist (s.lc l).urgent) : P (s.setLc l c) := inv.line h (urgentGood_sublist hc)

/-- A change of a line that leaves its urgent queue. -/
theorem StepInvariant.lineSame (inv : StepInvariant P) {s : State} {l : Line} {c : LineCtl} (h : P s)
    (hc : c.urgent = (s.lc l).urgent) : P (s.setLc l c) := inv.lineUrgent h (by rw [hc])

theorem StepInvariant.leaveLine (inv : StepInvariant P) {s : State} (l : Line) (i : Slot) (h : P s) :
    P (leaveLine l i s) := by
  refine inv.lineUrgent h ?_
  rw [leave_urgent]
  exact List.erase_sublist

theorem StepInvariant.joinRing (inv : StepInvariant P) {s : State} (l : Line) (i : Slot) (h : P s) : P (joinRing l i s) :=
  inv.lineSame h rfl

theorem StepInvariant.ringToProbe (inv : StepInvariant P) {s : State} (l : Line) (i : Slot) (h : P s) :
    P (ringToProbe l i s) := inv.lineSame h (ringRemove_keeps_urgent _ _)

theorem StepInvariant.probeToRing (inv : StepInvariant P) {s : State} (l : Line) (i : Slot) (h : P s) :
    P (probeToRing l i s) := inv.lineSame h rfl

theorem StepInvariant.probeRequeue (inv : StepInvariant P) {s : State} (l : Line) (i : Slot) (h : P s) :
    P (probeRequeue l i s) := inv.lineSame h rfl

theorem StepInvariant.urgentEnter (inv : StepInvariant P) {s : State} (l : Line) (i : Slot) (h : P s) :
    P (s.modLc l (fun c => c.urgentEnter i)) := inv.line h (urgentGood_enter _ i)

theorem StepInvariant.post (inv : StepInvariant P) {s : State} (tag : Byte) (k : ReqKind) (code : ReplyCode)
    (data : List Byte) (h : P s) : P (post tag k code data s) := inv.same h (sameCore_post tag k code data s)

theorem StepInvariant.setRetire (inv : StepInvariant P) {s : State} (r : Option RetireOp) (h : P s) : P (s.setRetire r) :=
  inv.same h (sameCore_setRetire r s)

theorem StepInvariant.setAu (inv : StepInvariant P) {s : State} (a : Attn) (h : P s) : P (s.setAu a) :=
  inv.same h (sameCore_setAu a s)

/-! ## Messages -/

/-- The entry whose inbox a message has joined (R93, R94). -/
def Drop.joinedBy (d : Drop) (m : InMsg) : Drop :=
  { d with
    inbox := d.inbox ++ [{ m with id := some d.nextInId, alertMark := alertMarkOf d.alertByte m }]
    nextInId := d.nextInId + 1#8, partialMsg := none }

theorem sameCore_joinInbox (i : Slot) (m : InMsg) (s : State) :
    SameCore (s.setDrop i ((s.drop i).joinedBy m)) (joinInbox i m s) := by
  simp only [joinInbox]
  split <;> constructor <;> simp [Drop.joinedBy]

/-- A partial message that ends, with the chain it had: its cells and records stay with the drop. -/
theorem StepInvariant.joinPartial (inv : StepInvariant P) {s : State} {i : Slot} {p : InMsg} (m : InMsg) (h : P s)
    (hp : (s.drop i).partialMsg = some p) (hc : m.chain = p.chain) (hr : m.recNo = p.recNo) : P (joinInbox i m s) := by
  refine inv.same (inv.drop (e := (s.drop i).joinedBy m) h (fun hd => ?_) (roomFor_same_place Iff.rfl rfl rfl rfl))
    (sameCore_joinInbox i m s)
  refine ⟨?_, ?_, .inl (hd.resolve_right (by simp [hp]))⟩
  · simp [Drop.chainCellNos, Drop.inboundCells, Drop.outboxCells, Drop.joinedBy, hp, hc]
  · simp [Drop.messageRecs, Drop.inboundRecs, Drop.outboxRecs, Drop.joinedBy, hp, hr]

theorem StepInvariant.cutOff (inv : StepInvariant P) {s : State} (i : Slot) (h : P s) : P (cutOff i s) := by
  unfold Machine.cutOff
  split
  · exact h
  · rename_i p hp
    exact inv.joinPartial (p := p) _ h hp rfl rfl

/-- A partial message replaced by one with the same chain. -/
theorem StepInvariant.setPartial (inv : StepInvariant P) {s : State} {i : Slot} {p : InMsg} (m : InMsg) (h : P s)
    (hp : (s.drop i).partialMsg = some p) (hc : m.chain = p.chain) (hr : m.recNo = p.recNo) :
    P (s.modDrop i (fun d => { d with partialMsg := some m })) := by
  refine inv.drop h (fun hd => ?_) (roomFor_same_place Iff.rfl rfl rfl rfl)
  refine ⟨?_, ?_, .inl (hd.resolve_right (by simp [hp]))⟩
  · simp [Drop.chainCellNos, Drop.inboundCells, Drop.outboxCells, hp, hc]
  · simp [Drop.messageRecs, Drop.inboundRecs, Drop.outboxRecs, hp, hr]

theorem sameCore_takeAway_setDrop (m n : Nat) (i : Slot) (e : Drop) (s : State) :
    SameCore (takeAway m n (s.setDrop i e)) ((takeAway m n s).setDrop i e) := by
  constructor <;> simp [takeAway_store]

/-- The cells and records of an entry, its partial message apart. -/
theorem gains_of_inbound {d e : Drop} {m : InMsg} {cells recs : List Nat}
    (hcells : (chainNos m.chain).Perm (cells ++ d.partialMsg.toList.flatMap (fun p => chainNos p.chain)))
    (hrecs : [m.recNo].Perm (recs ++ d.partialMsg.toList.map InMsg.recNo)) (hlive : e.state.live = true)
    (ho : e.outbox = d.outbox) (hc : e.inboundCells = d.inbox.flatMap (fun m => chainNos m.chain) ++ chainNos m.chain)
    (hr : e.inboundRecs = d.inbox.map InMsg.recNo ++ [m.recNo]) : d.Gains e cells recs := by
  have behind : ∀ {a b c x y : List Nat}, x.Perm (c ++ y) → ((a ++ x) ++ b).Perm (c ++ ((a ++ y) ++ b)) := by
    intro a b c x y h
    have h1 := (h.append_left a).append_right b
    refine h1.trans ?_
    rw [← List.append_assoc, ← List.append_assoc, ← List.append_assoc]
    exact (List.perm_append_comm.append_right y).append_right b
  refine ⟨?_, ?_, hlive⟩
  · rw [Drop.chainCellNos, hc, Drop.outboxCells, ho]
    exact behind hcells
  · rw [Drop.messageRecs, hr, Drop.outboxRecs, ho]
    exact behind hrecs

/-- A message settled on the store that has given its cells: the drop holds it in the partial slot or at the inbox tail. -/
theorem StepInvariant.settles (inv : StepInvariant P) {s : State} {i : Slot} (cells recs : Nat) (last : Bool) (m : InMsg)
    (h : P s) (hc : cells ≤ s.store.freeCells.length) (hr : recs ≤ s.store.freeRecords.length)
    (hlive : (s.drop i).state.live = true)
    (hcells : (chainNos m.chain).Perm (s.store.freeCells.take cells ++
      (s.drop i).partialMsg.toList.flatMap (fun p => chainNos p.chain)))
    (hrecs : [m.recNo].Perm (s.store.freeRecords.take recs ++ (s.drop i).partialMsg.toList.map InMsg.recNo)) :
    P (if last then joinInbox i m (takeAway cells recs s)
      else (takeAway cells recs s).modDrop i (fun d => { d with partialMsg := some m })) := by
  have taken : ∀ e : Drop, e.state = (s.drop i).state → e.currentLine = (s.drop i).currentLine →
      e.address = (s.drop i).address → e.pendingMove = (s.drop i).pendingMove → e.outbox = (s.drop i).outbox →
      e.inboundCells = (s.drop i).inbox.flatMap (fun m => chainNos m.chain) ++ chainNos m.chain →
      e.inboundRecs = (s.drop i).inbox.map InMsg.recNo ++ [m.recNo] → P ((takeAway cells recs s).setDrop i e) := by
    intro e hs hl ha hp ho hic hir
    refine inv.same (inv.takes h hc hr ?_ (roomFor_same_place (by rw [hs]) hl ha hp)) (sameCore_takeAway_setDrop cells recs i e s)
    exact gains_of_inbound hcells hrecs (by rw [hs]; exact hlive) ho hic hir
  split
  · refine inv.same ?_ (sameCore_joinInbox i m _)
    rw [takeAway_drop]
    exact taken _ rfl rfl rfl rfl rfl (by simp [Drop.joinedBy, Drop.inboundCells]) (by simp [Drop.joinedBy, Drop.inboundRecs])
  · rw [State.modDrop, takeAway_drop]
    exact taken _ rfl rfl rfl rfl rfl (by simp [Drop.inboundCells]) (by simp [Drop.inboundRecs])

theorem StepInvariant.offerFirst (inv : StepInvariant P) {s : State} (i : Slot) (last : Bool) (data : List Byte) (h : P s)
    (hlive : (s.drop i).state.live = true) (hp : (s.drop i).partialMsg = none) : P (offerFirst i last data s).2 := by
  unfold Machine.offerFirst
  split
  · rename_i c cs r rs hc hr
    dsimp only
    split
    · exact h
    · exact inv.settles 1 1 last _ h (by simp [hc]) (by simp [hr]) hlive (by simp [hc, hp, chainNos]) (by simp [hr, hp])
  · exact h

theorem StepInvariant.offerContinuation (inv : StepInvariant P) {s : State} {i : Slot} {p : InMsg} (last : Bool)
    (data : List Byte) (h : P s) (hlive : (s.drop i).state.live = true) (hp : (s.drop i).partialMsg = some p) :
    P (offerContinuation i p last data s).2 := by
  simp only [Machine.offerContinuation]
  split
  · simp only
    split
    · exact inv.joinPartial (p := p) _ h hp rfl rfl
    · exact inv.setPartial (p := p) _ h hp rfl rfl
  · split
    · exact h
    · rename_i c cs hc
      exact inv.settles 1 0 last _ h (by simp [hc]) (Nat.zero_le _) hlive
        (by simp [hc, hp, chainNos]) (by simp [hp])

theorem cutOff_partial (i : Slot) (s : State) : ((Machine.cutOff i s).drop i).partialMsg = none := by
  unfold Machine.cutOff
  split
  · assumption
  · simp [(sameCore_joinInbox i _ s).drop, Drop.joinedBy]

theorem cutOff_state (i : Slot) (s : State) : ((Machine.cutOff i s).drop i).state = (s.drop i).state := by
  unfold Machine.cutOff
  split
  · rfl
  · simp [(sameCore_joinInbox i _ s).drop, Drop.joinedBy]

theorem StepInvariant.offerSegment (inv : StepInvariant P) {s : State} (i : Slot) (first last : Bool) (data : List Byte)
    (h : P s) (hlive : (s.drop i).state.live = true) : P (offerSegment i first last data s).2 := by
  unfold Machine.offerSegment
  split
  · exact inv.offerFirst i last data (inv.cutOff i h) (by rw [cutOff_state]; exact hlive) (cutOff_partial i s)
  · split
    · exact inv.offerContinuation last data h hlive ‹_›
    · exact inv.sameHolding h ⟨rfl, rfl, rfl, rfl, rfl, rfl, rfl⟩

/-- The head of an outbox leaves, and its cells and record with it. -/
theorem StepInvariant.acceptSegment (inv : StepInvariant P) {s : State} (i : Slot) (n : Delivered) (h : P s) :
    P (acceptSegment i n s) := by
  simp only [Machine.acceptSegment]
  split
  · exact h
  · rename_i m rest ho
    split
    · split
      · have freed : P (freeAll (chainNos m.chain) [m.recNo] (s.setDrop i { s.drop i with
            outbox := rest, headLock := false, link := { (s.drop i).link with segIndex := 0 } })) := by
          refine inv.frees h (fun hd => ?_) (roomFor_same_place Iff.rfl rfl rfl rfl)
          refine ⟨?_, ?_, .inl (hd.resolve_right (by simp [ho]))⟩
          · simp only [Drop.chainCellNos, Drop.inboundCells, Drop.outboxCells, ho, List.flatMap_cons]
            exact List.perm_append_comm_assoc _ _ _
          · simp only [Drop.messageRecs, Drop.inboundRecs, Drop.outboxRecs, ho, List.map_cons]
            exact List.perm_middle
        split
        · exact inv.setAu _ freed
        · exact freed
      · exact inv.modLink i _ h
    · exact h

end Sys2Proof.Machine
end

section
/-!
Every step keeps a `StepInvariant`: moves, retirements, visits, line supervision and rounds.
-/

namespace Sys2Proof.Machine

variable {P : State → Prop}

/-! ## Moves (R49, R52) -/

/-- A place is a drop's own, or free of any other entry (R33, R34). -/
def State.PlaceOpen (s : State) (i : Slot) (l : Line) (a : Byte) : Prop :=
  ((s.drop i).state = .vacant → (s.drop i).pendingMove = none) →
    (s.drop i).holds l a = true ∨ s.placeTaken l a (some i) = false

theorem arrive_holds {d : Drop} {line l : Line} {addr a : Byte} (h : (d.arrive line addr).holds l a = true) :
    l = line ∧ a = addr := by
  simp only [Drop.holds, Drop.arrive, Bool.or_false, Bool.and_eq_true, beq_iff_eq] at h
  exact ⟨h.2.1.symm, h.2.2.symm⟩

theorem StepInvariant.relocate (inv : StepInvariant P) {s : State} {i : Slot} {line : Line} {addr : Byte} (h : P s)
    (hplace : s.PlaceOpen i line addr) : P (relocate i line addr s) := by
  have left : P (Machine.leaveLine (s.drop i).currentLine i s) := inv.leaveLine _ i h
  refine inv.joinRing line i (inv.cutOff i (inv.drop left ?_ ?_))
  · exact carries_same_queues (.inl rfl) rfl rfl rfl
  · refine State.RoomFor.congr (s := s) (fun hv => ⟨fun l a ha => ?_, fun _ => rfl⟩) (by simp)
    rw [leaveLine_drop] at ha
    obtain ⟨rfl, rfl⟩ := arrive_holds ha
    exact hplace hv

theorem placeTaken_congr {s t : State} (hd : ∀ j : Slot, (t.drop j).holds = (s.drop j).holds) (l : Line) (a : Byte)
    (i : Option Slot) : t.placeTaken l a i = s.placeTaken l a i := by
  simp [State.placeTaken, hd]

theorem rehome_holding (line : Line) (setHome : Bool) (d : Drop) (n : Byte) :
    d.SameHolding { d.rehome line setHome with missCount := n } := by
  unfold Drop.rehome
  split <;> exact ⟨rfl, rfl, rfl, rfl, rfl, rfl, rfl⟩

theorem Drop.SameHolding.holds {d e : Drop} (h : d.SameHolding e) : e.holds = d.holds := by
  funext l a
  simp [Drop.holds, h.state, h.currentLine, h.address, h.pendingMove]

theorem StepInvariant.applyMove (inv : StepInvariant P) {s : State} {i : Slot} {line : Line} {addr : Byte} (setHome : Bool)
    (h : P s) (hplace : s.PlaceOpen i line addr) : P (applyMove i line addr setHome s) := by
  have same := rehome_holding line setHome (s.drop i) 0
  refine inv.relocate (inv.sameHolding h same) fun hv => ?_
  have holds : ∀ j : Slot, ((s.modDrop i (fun d => { d.rehome line setHome with missCount := 0 })).drop j).holds
      = (s.drop j).holds := by
    intro j
    rw [modDrop_drop]
    split
    · rename_i hj; rw [hj]; exact same.holds
    · rfl
  rw [modDrop_drop_same, same.state, same.pendingMove] at hv
  rw [placeTaken_congr holds, holds]
  exact hplace hv

/-- A reservation given up. -/
theorem StepInvariant.unreserve (inv : StepInvariant P) {s : State} (i : Slot) (h : P s) :
    P (s.modDrop i (fun d => { d with pendingMove := none })) := by
  refine inv.drop h (carries_same_queues (Bool.eq_false_or_eq_true _) rfl rfl rfl) ?_
  exact roomFor_unreserved (or_not (p := (s.drop i).state = .vacant)) (.inr ⟨rfl, rfl⟩) rfl

theorem StepInvariant.settlePendingMove (inv : StepInvariant P) {s : State} (i : Slot) (h : P s) :
    P (settlePendingMove i s) := by
  unfold Machine.settlePendingMove
  split
  · exact h
  · rename_i p hp
    split
    · exact inv.post _ _ _ _ (inv.unreserve i h)
    · refine inv.post _ _ _ _ (inv.applyMove _ h fun hv => .inl ?_)
      have hne : (s.drop i).state ≠ .vacant := fun hs => by simp [hv hs] at hp
      simp [Drop.holds, hne, hp]

/-! ## Retirement (R54 to R58) -/

theorem StepInvariant.abandonMove (inv : StepInvariant P) {s : State} (m : Option PendingMove) (h : P s) :
    P (abandonMove m s) := by
  unfold Machine.abandonMove
  split
  · exact h
  · exact inv.post _ _ _ _ h

theorem abandonMove_requests (m : Option PendingMove) (s : State) : (Machine.abandonMove m s).hli.requests = s.hli.requests := by
  unfold Machine.abandonMove
  split
  · rfl
  · exact post_requests _ _ _ _ _

theorem sameCore_freed_leave (cells recs : List Nat) (m : Option PendingMove) (l : Line) (i : Slot) (s : State) :
    SameCore (Machine.abandonMove m (Machine.leaveLine l i (freeAll cells recs s)))
      (freeAll cells recs (Machine.abandonMove m (Machine.leaveLine l i s))) := by
  constructor <;> simp [abandonMove_requests, freeAll_store, Machine.leaveLine, State.modLc, State.setLc] <;> cases l <;> rfl

theorem StepInvariant.beginRetiring (inv : StepInvariant P) {s : State} {i : Slot} (h : P s)
    (hlive : (s.drop i).state.live = true) : P (beginRetiring i s) := by
  refine inv.setAu _ (inv.same (inv.abandonMove _ (inv.leaveLine _ i (inv.frees (i := i) (e := (s.drop i).stripped) h ?_ ?_)))
    (sameCore_freed_leave _ _ _ _ _ _))
  · intro _
    obtain ⟨hcells, hrecs⟩ := chainCellNos_empty (d := (s.drop i).stripped) ⟨rfl, rfl, rfl⟩
    rw [hcells, hrecs, List.append_nil, List.append_nil]
    exact ⟨.rfl, .rfl, .inr ⟨rfl, rfl, rfl⟩⟩
  · exact roomFor_unreserved (.inr fun hv => by simp [hv, DropState.live] at hlive) (.inr ⟨rfl, rfl⟩) rfl

theorem beginRetiring_state (i : Slot) (s : State) : ((Machine.beginRetiring i s).drop i).state = .retiring := by
  rw [(beginRetiring_facts i s).1]

theorem StepInvariant.toVacant (inv : StepInvariant P) {s : State} {i : Slot} (h : P s)
    (hdead : (s.drop i).state.live = false) : P (toVacant i s) :=
  inv.drop h (carries_empty hdead ⟨rfl, rfl, rfl⟩) (roomFor_unreserved (.inl rfl) (.inl rfl) rfl)

theorem StepInvariant.endRetire (inv : StepInvariant P) {s : State} (op : RetireOp) (code : ReplyCode) (data : List Byte)
    (h : P s) : P (endRetire op code data s) := by
  unfold Machine.endRetire answerCancel
  split
  · exact inv.post _ _ _ _ (inv.setRetire _ h)
  · exact inv.post _ _ _ _ (inv.post _ _ _ _ (inv.setRetire _ h))

theorem StepInvariant.runRetire (inv : StepInvariant P) (n : Nat) : ∀ {s : State}, P s → P (runRetire n s) := by
  induction n with
  | zero => intro s h; exact h
  | succ n ih =>
    intro s h
    unfold Machine.runRetire
    split
    · exact h
    · split
      · exact inv.endRetire _ _ _ h
      · split
        · exact inv.endRetire _ _ _ h
        · split
          · exact h
          · rename_i i _
            split
            · exact ih (inv.setRetire _ h)
            · split
              · rename_i hlive
                have begun := inv.beginRetiring h hlive
                split
                · exact begun
                · exact ih (inv.setRetire _ (inv.toVacant begun (by rw [beginRetiring_state]; rfl)))
              · exact h

theorem StepInvariant.finishRetiringVisit (inv : StepInvariant P) {s : State} {i : Slot} (h : P s)
    (hs : (s.drop i).state = .retiring) : P (finishRetiringVisit i s) := by
  have vacated := inv.toVacant h (by rw [hs]; rfl)
  simp only [Machine.finishRetiringVisit]
  split
  · exact vacated
  · split
    · exact inv.runRetire _ (inv.setRetire _ vacated)
    · exact vacated

/-! ## Line supervision (R102, R145, R149 to R155) -/

theorem StepInvariant.answerStop (inv : StepInvariant P) {s : State} (l : Line) (code : ReplyCode) (h : P s) :
    P (answerStop l code s) := by
  unfold Machine.answerStop
  split
  · exact h
  · exact inv.post _ _ _ _ (inv.lineSame h rfl)

theorem StepInvariant.discardBcasts (inv : StepInvariant P) {s : State} (l : Line) (h : P s) : P (discardBcasts l s) := by
  have dropped : P (dropDone (s.store.bcasts.map (fun x => x.off l)) s) := by
    refine inv.bcasts h ?_ ?_ <;> simp
  simp only [Machine.discardBcasts, raiseBcastDropped]
  split
  · exact dropped
  · exact inv.setAu _ dropped

theorem StepInvariant.loseDrop (inv : StepInvariant P) {s : State} {i : Slot} (h : P s)
    (hlive : (s.drop i).state.live = true) : P (loseDrop i s) :=
  inv.cutOff i (inv.ringToProbe _ i (inv.livingState h hlive rfl rfl rfl rfl rfl rfl rfl))

theorem inRing_live {st : DropState} (h : st.inRing = true) : st.live = true := by cases st <;> simp_all [DropState.inRing, DropState.live]

theorem StepInvariant.failoverSlot (inv : StepInvariant P) (l : Line) (n : Tally) {s : State} (i : Slot) (h : P s) :
    P (failoverSlot l (n, s) i).2 := by
  simp only [Machine.failoverSlot]
  split
  · rename_i hring
    simp only [Bool.and_eq_true, decide_eq_true_eq] at hring
    split
    · rename_i alt htarget
      refine inv.setAu _ (inv.relocate h fun _ => .inr ?_)
      unfold State.failoverTarget at htarget
      split at htarget
      · cases htarget
      · split at htarget
        · rename_i hc
          obtain rfl := Option.some.inj htarget
          simp only [Bool.and_eq_true, Bool.not_eq_true'] at hc
          exact hc.2
        · cases htarget
    · exact inv.setAu _ (inv.loseDrop h (inRing_live hring.2))
  · exact h

theorem StepInvariant.failoverSlots (inv : StepInvariant P) (l : Line) (is : List Slot) :
    ∀ (n : Tally) (s : State), P s → P (is.foldl (Machine.failoverSlot l) (n, s)).2 := by
  induction is with
  | nil => exact fun _ _ h => h
  | cons i is ih => exact fun n _ h => ih _ _ (inv.failoverSlot l n i h)

theorem StepInvariant.failover (inv : StepInvariant P) (l : Line) {s : State} (h : P s) : P (failover l s).2 := by
  unfold Machine.failover
  exact inv.failoverSlots l allSlots _ s h

theorem StepInvariant.faultEntry (inv : StepInvariant P) (l : Line) {s : State} (h : P s) : P (faultEntry l s) := by
  have begun : P (s.modLc l (fun c => { c with state := .fault, deferred := .clear, urgent := [] })) :=
    inv.lineUrgent h (List.nil_sublist _)
  have moved := inv.failover l (inv.discardBcasts l begun)
  simp only [Machine.faultEntry, raiseFailover, State.modLineAttn]
  exact inv.answerStop l .aborted (inv.setAu _ moved)

theorem StepInvariant.faultCheck (inv : StepInvariant P) (l : Line) (st : DropState) (success void : Bool) {s : State}
    (h : P s) : P (faultCheck l st success void s) := by
  have counted : P (s.modLc l (fun c => { c with failCount := failCountAfter c.failCount st success void })) :=
    inv.lineSame h rfl
  simp only [Machine.faultCheck]
  split
  · exact inv.faultEntry l counted
  · exact counted

theorem StepInvariant.cutLine (inv : StepInvariant P) (l : Line) {s : State} (h : P s) : P (cutLine l s) := by
  unfold Machine.cutLine
  split
  · exact inv.lineSame h rfl
  · exact inv.lineSame (inv.modLink _ _ h) rfl

theorem StepInvariant.resetDrop (inv : StepInvariant P) (l : Line) {s : State} (i : Slot) (h : P s) : P (resetDrop l s i) := by
  by_cases hon : (s.drop i).currentLine = l ∧ (s.drop i).state.live = true
  · rw [resetDrop_eq l s i hon.1 hon.2]
    have rejoined : P (Machine.cutOff i (s.modDrop i Drop.rejoin)) := by
      refine inv.cutOff i (inv.livingState h hon.2 ?_ rfl rfl rfl rfl rfl rfl)
      simp only [Drop.rejoin]
      split
      · rfl
      · exact hon.2
    split
    · exact inv.setAu _ rejoined
    · exact rejoined
  · rw [resetDrop_off l s i hon]
    exact h

theorem StepInvariant.resetDrops (inv : StepInvariant P) (l : Line) (is : List Slot) :
    ∀ {s : State}, P s → P (is.foldl (Machine.resetDrop l) s) := by
  induction is with
  | nil => exact fun h => h
  | cons i is ih => exact fun h => ih (inv.resetDrop l i h)

theorem StepInvariant.settleCut (inv : StepInvariant P) (v : Option Visit) {s : State} (h : P s) : P (settleCut v s) := by
  unfold Machine.settleCut
  split
  · exact h
  · split
    · exact inv.finishRetiringVisit h ‹_›
    · exact inv.settlePendingMove _ h

theorem StepInvariant.lineResetAct (inv : StepInvariant P) (l : Line) {s : State} (h : P s) : P (lineResetAct l s) := by
  have cut : P ((Machine.cutLine l s).modLc l LineCtl.restart) := inv.lineUrgent (inv.cutLine l h) (List.nil_sublist _)
  have settled := inv.settleCut (s.lc l).visit (inv.resetDrops l allSlots (inv.discardBcasts l cut))
  exact inv.setAu _ (inv.lineSame (inv.answerStop l .aborted settled) rfl)

/-! ## Visits (R113 to R135) -/

theorem StepInvariant.takeNext (inv : StepInvariant P) {s : State} (i : Slot) (n : Option Delivered) (next : Bool) (h : P s) :
    P (takeNext i n next s) := by
  unfold Machine.takeNext
  split
  · exact h
  · unfold reportAcceptance
    split
    · exact inv.modLink i _ h
    · exact inv.acceptSegment i _ (inv.modLink i _ h)

theorem StepInvariant.takeData (inv : StepInvariant P) {s : State} (i : Slot) (f : DropFrame) (h : P s)
    (hlive : (s.drop i).state.live = true) : P (takeData i f s) := by
  have offered := inv.offerSegment i f.first f.last f.payload h hlive
  simp only [Machine.takeData]
  split
  · split
    · exact inv.modLink i _ offered
    · exact offered
  · exact h

theorem StepInvariant.takeMore (inv : StepInvariant P) {s : State} (l : Line) (i : Slot) (more : Bool) (h : P s) :
    P (takeMore l i more s) := by
  unfold Machine.takeMore
  split
  · exact inv.urgentEnter l i h
  · exact h

theorem takeNext_state (i : Slot) (n : Option Delivered) (next : Bool) (s : State) :
    ((Machine.takeNext i n next s).drop i).state = (s.drop i).state := by
  unfold Machine.takeNext
  split
  · rfl
  · unfold reportAcceptance
    split
    · simp
    · rw [acceptSegment_state, modLink_drop_same]

theorem StepInvariant.processReply (inv : StepInvariant P) {s : State} (l : Line) (v : Visit) (f : DropFrame) (h : P s)
    (hlive : (s.drop v.slot).state.live = true) : P (processReply l v f s) := by
  unfold Machine.processReply
  split
  · exact inv.modLink _ _ h
  · exact inv.cutOff _ (inv.sameHolding h ⟨rfl, rfl, rfl, rfl, rfl, rfl, rfl⟩)
  · refine inv.takeMore l _ _ (inv.takeData _ f (inv.sameHolding (inv.takeNext _ _ _ h) ⟨rfl, rfl, rfl, rfl, rfl, rfl, rfl⟩) ?_)
    rw [clearSettle, modDrop_drop_same]
    simpa [takeNext_state] using hlive

theorem StepInvariant.noteState (inv : StepInvariant P) {s : State} (i : Slot) (before : DropState) (h : P s) :
    P (noteState i before s) := by
  unfold Machine.noteState
  split
  · exact h
  · exact inv.setAu _ h

theorem stateAfterSuccess_live {st : DropState} (ack : Bool) (h : st.live = true) : (stateAfterSuccess st ack).live = true := by
  cases st <;> cases ack <;> simp_all [stateAfterSuccess, DropState.live]

theorem stateAfterMiss_live {st : DropState} (miss : Byte) (h : st.live = true) : (stateAfterMiss st miss).live = true := by
  unfold stateAfterMiss
  split
  all_goals first | exact h | (split <;> rfl)

theorem StepInvariant.report (inv : StepInvariant P) {s : State} (i : Slot) (o : VisitOutcome) (h : P s)
    (hlive : (s.drop i).state.live = true) : P (report i o s) := by
  have success : ∀ ack, P (reportSuccess i ack s) := by
    intro ack
    have reported := inv.livingState (e := { s.drop i with
      missCount := 0, state := stateAfterSuccess (s.drop i).state ack }) h hlive (stateAfterSuccess_live ack hlive)
      rfl rfl rfl rfl rfl rfl
    refine inv.noteState i _ ?_
    split
    · exact inv.probeToRing _ i reported
    · exact reported
  cases o with
  | success => exact success false
  | successResyncAck => exact success true
  | failure =>
    have after := stateAfterMiss_live (missAfter (s.drop i).missCount) hlive
    have reported := inv.livingState (e := { s.drop i with
      missCount := missAfter (s.drop i).missCount,
      state := stateAfterMiss (s.drop i).state (missAfter (s.drop i).missCount) }) h hlive after rfl rfl rfl rfl rfl rfl
    refine inv.noteState i _ ?_
    split
    · exact inv.loseDrop reported (by rw [modDrop_drop_same]; exact after)
    · exact reported

theorem requeueProbed_drop (l : Line) (i j : Slot) (s : State) : (requeueProbed l i s).drop j = s.drop j := by
  simp [State.drop]

theorem StepInvariant.requeueProbed (inv : StepInvariant P) {s : State} (l : Line) (i : Slot) (h : P s) :
    P (requeueProbed l i s) := by
  unfold Machine.requeueProbed
  split
  · exact inv.probeRequeue l i h
  · exact h

theorem StepInvariant.closeLive (inv : StepInvariant P) {s : State} (l : Line) (v : Visit) (reply : Option DropFrame) (h : P s)
    (hlive : (s.drop v.slot).state.live = true) : P (closeLive l v reply s) := by
  have taken : P (takeReply l v reply s) ∧ ((takeReply l v reply s).drop v.slot).state.live = true := by
    unfold takeReply
    split
    · exact ⟨h, hlive⟩
    · exact ⟨inv.processReply l v _ h hlive, by rw [processReply_state]; exact hlive⟩
  refine inv.settlePendingMove _ (inv.report _ _ (inv.modLink _ _ (inv.requeueProbed l _ taken.1)) ?_)
  rw [modLink_drop_same, requeueProbed_drop]
  exact taken.2

theorem StepInvariant.freeLine (inv : StepInvariant P) {s : State} (l : Line) (o : Origin) (h : P s) : P (freeLine l o s) := by
  unfold Machine.freeLine
  extract_lets freed
  have hfreed : P freed := inv.lineSame h rfl
  split
  · exact inv.answerStop l .ok (inv.lineSame hfreed rfl)
  · exact hfreed

theorem live_of_not {st : DropState} (hr : st ≠ .retiring) (hv : st ≠ .vacant) : st.live = true := by
  cases st <;> simp_all [DropState.live]

theorem StepInvariant.endVisit (inv : StepInvariant P) {s : State} (l : Line) (v : Visit) (reply : Option DropFrame) (h : P s) :
    P (endVisit l v reply s) := by
  refine inv.freeLine l _ (inv.faultCheck l _ _ _ ?_)
  split
  · rename_i hr
    exact inv.finishRetiringVisit (inv.modLink _ _ h) (by simpa using hr)
  · split
    · exact h
    · exact inv.closeLive l v reply h (live_of_not ‹_› ‹_›)

theorem StepInvariant.attemptFailed (inv : StepInvariant P) {s : State} (l : Line) (v : Visit) (h : P s) :
    P (attemptFailed l v s) := by
  have counted : P (countError v.slot s) := inv.sameHolding h ⟨rfl, rfl, rfl, rfl, rfl, rfl, rfl⟩
  simp only [Machine.attemptFailed]
  split
  · exact inv.lineSame counted rfl
  · exact inv.endVisit l v none counted

theorem StepInvariant.fieldChar (inv : StepInvariant P) {s : State} (l : Line) (ch : FieldChar) (h : P s) :
    P (fieldChar l ch s) := by
  have noted : P (noteStopError l ch s) := by
    unfold noteStopError
    split
    · exact inv.lineSame h rfl
    · exact h
  simp only [Machine.fieldChar]
  split
  · exact h
  · split
    · exact noted
    · split
      · simp only [takeReplyChar]
        split
        · exact inv.attemptFailed l _ noted
        · split
          · exact inv.attemptFailed l _ noted
          · exact inv.endVisit l _ _ noted
          · exact inv.lineSame noted rfl
      · exact noted

theorem StepInvariant.replyFrame (inv : StepInvariant P) (l : Line) (chars : List FieldChar) :
    ∀ {s : State}, P s → P (replyFrame l chars s) := by
  induction chars with
  | nil => exact fun h => h
  | cons ch chars ih => exact fun h => ih (inv.fieldChar l ch h)

theorem StepInvariant.sendPending (inv : StepInvariant P) {s : State} (l : Line) (h : P s) : P (sendPending l s) := by
  unfold Machine.sendPending
  split
  · split
    · exact inv.lineSame h rfl
    · exact h
  · split
    · exact inv.lineSame h rfl
    · exact h

/-! ## Rounds (R107 to R114) -/

theorem passOver_urgent (c : LineCtl) : c.passOver.urgent = c.urgent := by
  unfold LineCtl.passOver
  split <;> rfl

theorem probeWindow_urgent (c : LineCtl) : c.probeWindow.urgent = c.urgent := by
  simp only [LineCtl.probeWindow]
  split <;> rfl

theorem catchUp_urgent (c : LineCtl) : c.catchUp.urgent = c.urgent := by
  unfold LineCtl.catchUp
  split
  · split
    · split <;> rfl
    · exact probeWindow_urgent c
  · rfl

theorem StepInvariant.startVisit (inv : StepInvariant P) {s : State} (l : Line) (ch : Choice) (h : P s) :
    P (startVisit l ch s) := by
  refine inv.lineUrgent (inv.sameHolding h ⟨rfl, rfl, rfl, rfl, rfl, rfl, rfl⟩) ?_
  rw [modDrop_lc]
  exact List.erase_sublist

theorem StepInvariant.visitStart (inv : StepInvariant P) {s : State} (l : Line) (h : P s) : P (visitStart l s) := by
  have caught : P (s.setLc l (s.lc l).passOver.catchUp) := inv.lineSame h (by rw [catchUp_urgent, passOver_urgent])
  simp only [Machine.visitStart]
  split
  · split
    · exact caught
    · exact inv.startVisit l _ caught
  · exact h

theorem StepInvariant.enterProbe (inv : StepInvariant P) {s : State} (l : Line) (h : P s) : P (enterProbe l s) :=
  inv.lineSame h (probeWindow_urgent _)

theorem StepInvariant.takeOff (inv : StepInvariant P) {s : State} (l : Line) (b : Bcast) (h : P s) : P (takeOff l b s) := by
  refine inv.bcasts h ?_ ?_ <;>
  · rw [List.map_map]
    apply List.map_congr_left
    intro x _
    simp only [Function.comp]
    split <;> simp

theorem StepInvariant.broadcastWindow (inv : StepInvariant P) {s : State} (l : Line) (h : P s) : P (broadcastWindow l s) := by
  have passed : P (s.modLc l LineCtl.passOver) := inv.lineSame h (passOver_urgent _)
  unfold Machine.broadcastWindow
  split
  · unfold openWindow
    split
    · exact inv.enterProbe l passed
    · exact inv.takeOff l _ (inv.lineSame passed rfl)
  · exact h

theorem StepInvariant.bcastFrameEnd (inv : StepInvariant P) {s : State} (l : Line) (h : P s) : P (bcastFrameEnd l s) := by
  have ended : P (s.modLc l (fun c => { c with bcastFrame := none })) := inv.lineSame h rfl
  unfold Machine.bcastFrameEnd
  split
  · split
    · dsimp only
      split
      · exact inv.enterProbe l ended
      · exact ended
    · exact h
  · exact h

theorem StepInvariant.startRound (inv : StepInvariant P) {s : State} (l : Line) (h : P s) : P (startRound l s) := by
  refine inv.lineSame (s := s.setTimebase (s.timebase + 1)) (inv.same h ?_) rfl
  constructor <;> simp

theorem StepInvariant.roundPeriodElapsed (inv : StepInvariant P) {s : State} (l : Line) (h : P s) :
    P (roundPeriodElapsed l s) := by
  have passed : P (passPeriod l s) := by
    refine inv.lineSame h ?_
    dsimp only
    split <;> rfl
  unfold Machine.roundPeriodElapsed
  split
  · exact inv.startRound l (inv.lineSame passed (catchUp_urgent _))
  · exact h

end Sys2Proof.Machine
end

section
/-!
Every step keeps a `StepInvariant`: the owners of the requests, the host link, and the step itself.
-/

namespace Sys2Proof.Machine

variable {P : State → Prop}

/-! ## Checks that have passed (R164) -/

/-- A run of checks that passes has passed its first check. -/
theorem bind_eq_ok {α β : Type} {x : Except ReplyCode α} {f : α → Except ReplyCode β} {b : β} (h : x >>= f = .ok b) :
    ∃ a, x = .ok a ∧ f a = .ok b := by
  cases x with
  | error c => cases h
  | ok a => exact ⟨a, rfl, h⟩

theorem require_eq_ok {ok : Bool} {code : ReplyCode} {u : Unit} (h : require ok code = .ok u) : ok = true := by
  unfold require at h
  split at h
  · assumption
  · cases h

theorem requireSome_eq_ok {α : Type} {v : Option α} {code : ReplyCode} {a : α} (h : requireSome v code = .ok a) : v = some a := by
  cases v with
  | none => cases h
  | some b => simpa [requireSome] using h

/-- A check that passes, and the checks after it. -/
theorem require_bind_eq_ok {α : Type} {ok : Bool} {code : ReplyCode} {f : Unit → Except ReplyCode α} {b : α}
    (h : require ok code >>= f = .ok b) : ok = true ∧ f () = .ok b := by
  obtain ⟨u, hok, hf⟩ := bind_eq_ok h
  exact ⟨require_eq_ok hok, hf⟩

theorem slotOf_some {b : Byte} {i : Slot} (h : slotOf b = some i) : b.toNat = i.val := by
  unfold slotOf at h
  split at h
  · simpa using congrArg Fin.val (Option.some.inj h)
  · cases h

theorem entryCheck_eq_ok {s : State} {slot gen : Byte} {i : Slot} (h : s.entryCheck slot gen = .ok i) :
    slot.toNat = i.val ∧ (s.drop i).state ≠ .vacant ∧ (s.drop i).generation = gen := by
  unfold State.entryCheck at h
  split at h
  · cases h
  · rename_i j hj
    split at h
    · cases h
    · split at h
      · cases h
      · rename_i hv hg
        obtain rfl : j = i := by simpa using h
        exact ⟨slotOf_some hj, hv, by simpa using hg⟩

theorem StepInvariant.reply (inv : StepInvariant P) {s : State} (tag : Byte) (k : ReqKind) {a : Answer} (h : P s)
    (ha : ∀ data t, a = .ok (data, t) → P t) : P (reply tag k s a) := by
  cases a with
  | error code => exact inv.post _ _ _ _ h
  | ok done => exact inv.post _ _ _ _ (ha done.1 done.2 rfl)

/-- A request that only shows something. -/
theorem StepInvariant.replyShows (inv : StepInvariant P) {s : State} (tag : Byte) (k : ReqKind) {a : Answer} (h : P s)
    (ha : ∀ data t, a = .ok (data, t) → t = s) : P (Machine.reply tag k s a) :=
  inv.reply tag k h fun data t e => by rw [ha data t e]; exact h

/-! ## Drop Table requests -/

theorem fill_eq_ok {b : DropBody} {gen : Byte} {d : Drop} (h : b.fill gen = .ok d) :
    d.state = .joining ∧ d.currentLine = d.homeLine ∧ d.pendingMove = none ∧ d.outbox = [] ∧ d.inbox = [] ∧
      d.partialMsg = none := by
  obtain ⟨-, h⟩ := require_bind_eq_ok h
  obtain ⟨home, -, h⟩ := bind_eq_ok h
  obtain ⟨alt, -, h⟩ := bind_eq_ok h
  obtain ⟨-, h⟩ := require_bind_eq_ok h
  obtain ⟨notify, -, h⟩ := bind_eq_ok h
  obtain ⟨alert, -, h⟩ := bind_eq_ok h
  obtain rfl : _ = d := Except.ok.inj h
  exact ⟨rfl, rfl, rfl, rfl, rfl, rfl⟩

theorem pickSlot_vacant {s : State} {want : Option Slot} {i : Slot} (h : s.pickSlot want = .ok i) :
    (s.drop i).state = .vacant := by
  have hv : s.isVacant i = true := by
    cases want with
    | none => exact List.find?_some (requireSome_eq_ok h)
    | some j =>
      simp only [State.pickSlot] at h
      split at h
      · obtain rfl : j = i := by simpa using h
        assumption
      · cases h
  simpa [State.isVacant] using hv

theorem StepInvariant.createDrop (inv : StepInvariant P) {s t : State} {slot : Byte} {b : DropBody} {data : List Byte}
    (h : P s) (e : createDrop slot b s = .ok (data, t)) : P t := by
  obtain ⟨want, -, e⟩ := bind_eq_ok e
  obtain ⟨d, hfill, e⟩ := bind_eq_ok e
  obtain ⟨i, hpick, e⟩ := bind_eq_ok e
  obtain ⟨hfree, e⟩ := require_bind_eq_ok e
  obtain ⟨-, rfl⟩ := Prod.mk.inj (Except.ok.inj e)
  obtain ⟨hs, hl, hp, ho, hi, hm⟩ := fill_eq_ok hfill
  have hvacant := pickSlot_vacant hpick
  simp only [Bool.not_eq_true', State.placeTaken, List.any_eq_false] at hfree
  refine inv.joinRing _ i (inv.drop h (carries_empty (by rw [hvacant]; rfl) ⟨ho, hi, hm⟩) fun _ => ⟨fun l a ha => .inr ?_, fun _ => hp⟩)
  simp only [Drop.holds, hp, hl, Bool.or_false, Bool.and_eq_true, beq_iff_eq] at ha
  obtain ⟨-, rfl, rfl⟩ := ha
  simp only [State.placeTaken, List.any_eq_false, Bool.and_eq_true, not_and]
  intro j hj _
  have := hfree j hj
  simpa using this

/-- The replacement of the fields, given code by given code (R38). -/
theorem apply_eq (b : ModifyBody) (d : Drop) :
    b.apply d =
      (if b.has 2 then requireSome (altOf b.alternate) .badValue else .ok d.alternate) >>= fun alt =>
      (if b.has 10 then requireSome (flagOf b.notify) .badValue else .ok d.notify) >>= fun notify =>
      (if b.has 11 then requireSome (alertOf b.alertPresence b.alertValue) .badValue else .ok d.alertByte) >>= fun alert =>
      .ok { d with
        cls := pick (b.has 0) b.cls d.cls, groups := pick (b.has 1) b.groups d.groups, alternate := alt
        retryLimit := pick (b.has 3) b.retryLimit d.retryLimit, replyTimeout := pick (b.has 4) b.replyTimeout d.replyTimeout
        inboxLimit := pick (b.has 5) b.inboxLimit d.inboxLimit, inboxTrigger := pick (b.has 6) b.inboxTrigger d.inboxTrigger
        outboxLimit := pick (b.has 7) b.outboxLimit d.outboxLimit
        outboxTrigger := pick (b.has 8) b.outboxTrigger d.outboxTrigger
        maxInbound := pick (b.has 9) b.maxInbound d.maxInbound, notify := notify, alertByte := alert } := by
  unfold ModifyBody.apply
  cases b.has 2 <;> cases b.has 10 <;> cases b.has 11 <;> rfl

theorem apply_holding {b : ModifyBody} {d e : Drop} (h : b.apply d = .ok e) : d.SameHolding e := by
  rw [apply_eq] at h
  obtain ⟨alt, -, h⟩ := bind_eq_ok h
  obtain ⟨notify, -, h⟩ := bind_eq_ok h
  obtain ⟨alert, -, h⟩ := bind_eq_ok h
  obtain rfl : _ = e := Except.ok.inj h
  exact ⟨rfl, rfl, rfl, rfl, rfl, rfl, rfl⟩

theorem StepInvariant.modifyDrop (inv : StepInvariant P) {s t : State} {slot gen : Byte} {b : ModifyBody} {data : List Byte}
    (h : P s) (e : modifyDrop slot gen b s = .ok (data, t)) : P t := by
  obtain ⟨i, -, e⟩ := bind_eq_ok e
  obtain ⟨-, e⟩ := require_bind_eq_ok e
  obtain ⟨-, e⟩ := require_bind_eq_ok e
  obtain ⟨d, happly, e⟩ := bind_eq_ok e
  obtain ⟨-, e⟩ := require_bind_eq_ok e
  obtain ⟨-, rfl⟩ := Prod.mk.inj (Except.ok.inj e)
  exact inv.setAu _ (inv.sameHolding h (apply_holding happly))

/-- The checks of DROP_MOVE that its effects rest on (R44). -/
theorem checkMove_eq_ok {s : State} {slot gen line addr flags : Byte} {o : MoveOrder}
    (h : checkMove slot gen line addr flags s = .ok o) :
    (s.drop o.slot).state ≠ .vacant ∧ s.placeTaken o.line o.address (some o.slot) = false := by
  obtain ⟨i, hentry, h⟩ := bind_eq_ok h
  obtain ⟨-, h⟩ := require_bind_eq_ok h
  obtain ⟨l, -, h⟩ := bind_eq_ok h
  obtain ⟨-, h⟩ := require_bind_eq_ok h
  obtain ⟨-, h⟩ := require_bind_eq_ok h
  obtain ⟨-, h⟩ := require_bind_eq_ok h
  obtain ⟨hplace, h⟩ := require_bind_eq_ok h
  obtain rfl : _ = o := Except.ok.inj h
  exact ⟨(entryCheck_eq_ok hentry).2.1, by simpa using hplace⟩

theorem StepInvariant.moveDrop (inv : StepInvariant P) {s : State} (tag slot gen line addr flags : Byte) (h : P s) :
    P (moveDrop tag (checkMove slot gen line addr flags s) s) := by
  unfold Machine.moveDrop
  split
  · exact inv.post _ _ _ _ h
  · rename_i o ho
    obtain ⟨hne, hplace⟩ := checkMove_eq_ok ho
    split
    · refine inv.drop h (carries_same_queues (Bool.eq_false_or_eq_true _) rfl rfl rfl)
        fun _ => ⟨fun l a ha => ?_, fun hv => absurd hv hne⟩
      simp only [Drop.holds, Bool.and_eq_true, Bool.or_eq_true, beq_iff_eq, bne_iff_ne, ne_eq] at ha ⊢
      obtain ⟨-, hcur | ⟨rfl, rfl⟩⟩ := ha
      · exact .inl ⟨hne, .inl hcur⟩
      · exact .inr hplace
    · exact inv.post _ _ _ _ (inv.applyMove _ h fun _ => .inr hplace)

theorem StepInvariant.cancel (inv : StepInvariant P) {s : State} (tag : Byte) (body : List Byte) (h : P s) :
    P (actCancel tag body s) := by
  unfold actCancel
  split
  · split
    · exact inv.post _ _ _ _ h
    · split
      · exact inv.post _ _ _ _ (inv.post _ _ _ _ (inv.unreserve _ h))
      · unfold cancelRetire
        split
        · split
          · exact inv.setRetire _ h
          · exact inv.post _ _ _ _ h
        · exact inv.post _ _ _ _ h
  · exact inv.post _ _ _ _ h

/-! ## Line requests -/

theorem StepInvariant.lineStart (inv : StepInvariant P) {s t : State} {l : Line} {data : List Byte} (h : P s)
    (e : lineStart l s = .ok (data, t)) : P t := by
  have running : P (enterRunning l s) := inv.lineSame h rfl
  unfold Machine.lineStart at e
  split at e <;> cases e
  · exact inv.startRound l running
  · exact running
  · exact inv.setAu _ running
  · exact h

theorem StepInvariant.lineStop (inv : StepInvariant P) {s : State} (tag : Byte) (l : Line) (h : P s) : P (lineStop tag l s) := by
  unfold Machine.lineStop
  split
  · split
    · exact inv.lineSame h rfl
    · exact inv.post _ _ _ _ (inv.lineSame h rfl)
  · exact inv.post _ _ _ _ h

/-! ## Message requests -/

/-- The cells of a chain written at the head of the free list are those taken from it (R63, R68). -/
theorem chainNos_writeCells (free : List Nat) (segs : List (List Byte)) :
    chainNos (writeCells free segs) = free.take segs.length := by
  induction free generalizing segs with
  | nil => simp [writeCells, chainNos]
  | cons n free ih =>
    cases segs with
    | nil => simp [writeCells, chainNos]
    | cons d segs => simpa [writeCells, chainNos] using ih segs

/-- A payload takes a cell for each 32 bytes begun (R68). -/
theorem segments_length (fuel : Nat) (bs : List Byte) (h : bs.length ≤ 32 * fuel) :
    (segments fuel bs).length = cellsFor bs.length := by
  induction fuel generalizing bs with
  | zero => simp [List.length_eq_zero_iff.mp (by simpa using h), segments, cellsFor]
  | succ fuel ih =>
    cases bs with
    | nil => simp [segments, cellsFor]
    | cons b bs =>
      have hrest := ih ((b :: bs).drop 32) (by simp at h ⊢; omega)
      simp only [segments, List.length_cons, hrest, cellsFor, List.length_drop]
      omega

theorem outboxInsert_perm (locked : Bool) (m : OutMsg) (q : List OutMsg) : (outboxInsert locked m q).Perm (m :: q) := by
  induction q generalizing locked with
  | nil => exact .rfl
  | cons x xs ih =>
    unfold outboxInsert
    split
    · exact List.perm_append_singleton m (x :: xs)
    · split
      · exact ((ih false).cons x).trans (.swap m x xs)
      · exact .rfl

theorem take_one {l : List Nat} (h : l ≠ []) : l.take 1 = [l.headD 0] := by
  cases l with
  | nil => exact absurd rfl h
  | cons a as => rfl

theorem StepInvariant.submit (inv : StepInvariant P) {s : State} {i : Slot} (urgent : Bool) {payload : List Byte} (h : P s)
    (hlive : (s.drop i).state.live = true) (hlen : payload.length ≤ Config.messageBytes)
    (hcells : cellsFor payload.length ≤ s.store.freeCells.length) (hrecs : s.store.freeRecords ≠ []) :
    P (submit i urgent payload s) := by
  have taken : P (takeAway (cellsFor payload.length) 1 (joinOutbox i (s.newOutMsg i urgent payload) s)) := by
    refine inv.takes h hcells (List.length_pos_of_ne_nil hrecs) ?_ (roomFor_same_place Iff.rfl rfl rfl rfl)
    have perm := outboxInsert_perm (s.drop i).headLock (s.newOutMsg i urgent payload) (s.drop i).outbox
    have chain : chainNos (s.newOutMsg i urgent payload).chain = s.store.freeCells.take (cellsFor payload.length) := by
      rw [State.newOutMsg, chainNos_writeCells, segments_length _ _ (by simpa [Config.chainCells, Config.messageBytes] using hlen)]
    refine ⟨?_, ?_, hlive⟩
    · refine ((perm.flatMap_right _).append_left (s.drop i).inboundCells).trans ?_
      rw [List.flatMap_cons, chain]
      exact List.perm_append_comm_assoc _ _ _
    · refine ((perm.map _).append_left (s.drop i).inboundRecs).trans ?_
      rw [take_one hrecs]
      exact List.perm_middle
  simp only [Machine.submit, submitEntry]
  split
  · exact inv.urgentEnter _ i taken
  · exact taken

theorem StepInvariant.fetch (inv : StepInvariant P) {s : State} {i : Slot} {m : InMsg} (h : P s)
    (hm : (s.drop i).inbox.head? = some m) : P (s.modDrop i (fun d => { d with inbox := markFetched d.inbox })) := by
  obtain ⟨rest, hi⟩ := List.head?_eq_some_iff.mp hm
  refine inv.drop h (fun hd => ?_) (roomFor_same_place Iff.rfl rfl rfl rfl)
  refine ⟨?_, ?_, .inl (hd.resolve_right (by simp [hi]))⟩
  · simp [Drop.chainCellNos, Drop.inboundCells, Drop.outboxCells, hi, markFetched]
  · simp [Drop.messageRecs, Drop.inboundRecs, Drop.outboxRecs, hi, markFetched]

theorem StepInvariant.releaseHead (inv : StepInvariant P) {s : State} {i : Slot} {m : InMsg} (h : P s)
    (hm : (s.drop i).inbox.head? = some m) : P (releaseHead i m s) := by
  obtain ⟨rest, hi⟩ := List.head?_eq_some_iff.mp hm
  refine inv.setAu _ (inv.frees h (fun hd => ?_) (roomFor_same_place Iff.rfl rfl rfl rfl))
  refine ⟨?_, ?_, .inl (hd.resolve_right (by simp [hi]))⟩
  · simp [Drop.chainCellNos, Drop.inboundCells, Drop.outboxCells, hi]
  · simp [Drop.messageRecs, Drop.inboundRecs, Drop.outboxRecs, hi]

/-- The entry whose selected queues are purged (R99). -/
def Drop.purged (inbound outbound : Bool) (d : Drop) : Drop :=
  let d1 := if inbound then d.purgeInbox else d
  if outbound then d1.purgeOutbox else d1

theorem purged_releases (inbound outbound : Bool) (d : Drop) :
    d.Releases (d.purged inbound outbound) (onlyIf inbound d.inboundCells ++ onlyIf outbound d.outboxCells)
      (onlyIf inbound d.inboundRecs ++ onlyIf outbound d.outboxRecs) := by
  intro hd
  cases inbound <;> cases outbound
  · exact ⟨.rfl, .rfl, hd⟩
  · refine ⟨?_, ?_, hd.imp id fun ⟨_, hi, hp⟩ => ⟨rfl, hi, hp⟩⟩
    · exact List.perm_append_comm.trans (.of_eq (by simp [onlyIf, Drop.purged, Drop.chainCellNos, Drop.purgeOutbox,
        Drop.inboundCells, Drop.outboxCells]))
    · exact List.perm_append_comm.trans (.of_eq (by simp [onlyIf, Drop.purged, Drop.messageRecs, Drop.purgeOutbox,
        Drop.inboundRecs, Drop.outboxRecs]))
  · refine ⟨?_, ?_, hd.imp id fun ⟨ho, _, _⟩ => ⟨ho, rfl, rfl⟩⟩
    · simp [onlyIf, Drop.purged, Drop.chainCellNos, Drop.purgeInbox, Drop.inboundCells, Drop.outboxCells]
    · simp [onlyIf, Drop.purged, Drop.messageRecs, Drop.purgeInbox, Drop.inboundRecs, Drop.outboxRecs]
  · refine ⟨?_, ?_, hd.imp id fun _ => ⟨rfl, rfl, rfl⟩⟩
    · simp [onlyIf, Drop.purged, Drop.chainCellNos, Drop.purgeInbox, Drop.purgeOutbox, Drop.inboundCells, Drop.outboxCells]
    · simp [onlyIf, Drop.purged, Drop.messageRecs, Drop.purgeInbox, Drop.purgeOutbox, Drop.inboundRecs, Drop.outboxRecs]

theorem purged_place (inbound outbound : Bool) (d : Drop) :
    (d.purged inbound outbound).state = d.state ∧ (d.purged inbound outbound).currentLine = d.currentLine ∧
      (d.purged inbound outbound).address = d.address ∧ (d.purged inbound outbound).pendingMove = d.pendingMove := by
  cases inbound <;> cases outbound <;> exact ⟨rfl, rfl, rfl, rfl⟩

theorem StepInvariant.purge (inv : StepInvariant P) {s : State} (i : Slot) (inbound outbound : Bool) (h : P s) :
    P (purge i inbound outbound s) := by
  obtain ⟨hs, hl, ha, hp⟩ := purged_place inbound outbound (s.drop i)
  unfold Machine.purge
  extract_lets d cells recs d1 d2 s1 s2
  have freed : P s1 :=
    inv.frees h (purged_releases inbound outbound (s.drop i)) (roomFor_same_place (Iff.of_eq (congrArg (· = _) hs)) hl ha hp)
  have evaluated : P s2 := by
    unfold s2
    split
    · exact inv.setAu _ freed
    · exact freed
  split
  · exact inv.setAu _ evaluated
  · exact evaluated

theorem lineSetOf_some {b : Byte} {x y : Bool} (h : lineSetOf b = some (x, y)) : x = true ∨ y = true := by
  unfold lineSetOf at h
  split at h
  · rename_i hb
    obtain ⟨rfl, rfl⟩ := Prod.mk.inj (Option.some.inj h)
    have : b = 1#8 ∨ b = 2#8 ∨ b = 3#8 := by bv_omega
    rcases this with rfl | rfl | rfl <;> decide
  · cases h

/-! ## The owners (R160) -/

theorem StepInvariant.ownerAct (inv : StepInvariant P) {s : State} (k : ReqKind) (tag : Byte) (body : List Byte) (h : P s) :
    P (ownerAct k tag body s) := by
  cases k with
  | deviceInfo =>
    refine inv.replyShows _ _ h fun data t e => ?_
    obtain ⟨-, e⟩ := require_bind_eq_ok e
    exact (Prod.mk.inj (Except.ok.inj e)).2.symm
  | deviceRestart =>
    simp only [Machine.ownerAct, actDeviceRestart]
    split
    · refine inv.same h ?_
      constructor <;> simp [enqueue, Hli.requests, markPhase_requests]
    · exact inv.post _ _ _ _ h
  | cancel => exact inv.cancel tag body h
  | dropCreate =>
    refine inv.reply _ _ h fun data t e => ?_
    split at e
    · exact inv.createDrop h e
    · cases e
  | dropModify =>
    refine inv.reply _ _ h fun data t e => ?_
    split at e
    · exact inv.modifyDrop h e
    · cases e
  | dropQuery =>
    refine inv.replyShows _ _ h fun data t e => ?_
    split at e
    · obtain ⟨i, -, e⟩ := bind_eq_ok e
      exact (Prod.mk.inj (Except.ok.inj e)).2.symm
    · cases e
  | dropScan =>
    refine inv.replyShows _ _ h fun data t e => ?_
    obtain ⟨-, e⟩ := require_bind_eq_ok e
    exact (Prod.mk.inj (Except.ok.inj e)).2.symm
  | dropMove =>
    simp only [Machine.ownerAct, actDropMove]
    split
    · exact inv.moveDrop _ _ _ _ _ _ h
    · exact inv.post _ _ _ _ h
  | dropRetire =>
    simp only [Machine.ownerAct, actDropRetire]
    split
    · split
      · exact inv.post _ _ _ _ h
      · split
        · exact inv.post _ _ _ _ h
        · exact inv.runRetire _ (inv.setRetire _ h)
    · exact inv.post _ _ _ _ h
  | msgSubmit =>
    refine inv.reply _ _ h fun data t e => ?_
    split at e
    · obtain ⟨i, hentry, e⟩ := bind_eq_ok e
      obtain ⟨hstate, e⟩ := require_bind_eq_ok e
      obtain ⟨-, e⟩ := require_bind_eq_ok e
      obtain ⟨hlen, e⟩ := require_bind_eq_ok e
      obtain ⟨-, e⟩ := require_bind_eq_ok e
      obtain ⟨-, e⟩ := require_bind_eq_ok e
      obtain ⟨hfree, e⟩ := require_bind_eq_ok e
      obtain ⟨-, rfl⟩ := Prod.mk.inj (Except.ok.inj e)
      simp only [Bool.and_eq_true, decide_eq_true_eq, Bool.not_eq_true', List.isEmpty_eq_false_iff, bne_iff_ne] at hlen hfree hstate
      exact inv.submit _ h (live_of_not hstate (entryCheck_eq_ok hentry).2.1) hlen.2 hfree.1 hfree.2
    · cases e
  | msgFetch =>
    refine inv.reply _ _ h fun data t e => ?_
    split at e
    · obtain ⟨i, -, e⟩ := bind_eq_ok e
      obtain ⟨m, hm, e⟩ := bind_eq_ok e
      obtain ⟨-, rfl⟩ := Prod.mk.inj (Except.ok.inj e)
      exact inv.fetch h (requireSome_eq_ok hm)
    · cases e
  | msgRelease =>
    refine inv.reply _ _ h fun data t e => ?_
    split at e
    · obtain ⟨i, -, e⟩ := bind_eq_ok e
      obtain ⟨m, hm, e⟩ := bind_eq_ok e
      obtain ⟨-, e⟩ := require_bind_eq_ok e
      obtain ⟨-, rfl⟩ := Prod.mk.inj (Except.ok.inj e)
      exact inv.releaseHead h (requireSome_eq_ok hm)
    · cases e
  | msgPurge =>
    refine inv.reply _ _ h fun data t e => ?_
    split at e
    · obtain ⟨i, -, e⟩ := bind_eq_ok e
      obtain ⟨sel, -, e⟩ := bind_eq_ok e
      obtain ⟨-, rfl⟩ := Prod.mk.inj (Except.ok.inj e)
      exact inv.purge i _ _ h
    · cases e
  | msgBroadcast =>
    refine inv.reply _ _ h fun data t e => ?_
    split at e
    · obtain ⟨set, hset, e⟩ := bind_eq_ok e
      obtain ⟨target, -, e⟩ := bind_eq_ok e
      obtain ⟨-, e⟩ := require_bind_eq_ok e
      obtain ⟨-, e⟩ := require_bind_eq_ok e
      obtain ⟨-, e⟩ := require_bind_eq_ok e
      obtain ⟨-, e⟩ := require_bind_eq_ok e
      obtain ⟨hfree, e⟩ := require_bind_eq_ok e
      obtain ⟨-, rfl⟩ := Prod.mk.inj (Except.ok.inj e)
      simp only [Bool.and_eq_true, Bool.not_eq_true', List.isEmpty_eq_false_iff] at hfree
      exact inv.queues h (lineSetOf_some (requireSome_eq_ok hset)) hfree.1 hfree.2
    · cases e
  | poolStatus =>
    refine inv.replyShows _ _ h fun data t e => ?_
    obtain ⟨-, e⟩ := require_bind_eq_ok e
    exact (Prod.mk.inj (Except.ok.inj e)).2.symm
  | poolMarks =>
    refine inv.reply _ _ h fun data t e => ?_
    split at e
    · obtain ⟨hmarks, e⟩ := require_bind_eq_ok e
      obtain ⟨-, rfl⟩ := Prod.mk.inj (Except.ok.inj e)
      exact inv.marks h hmarks
    · cases e
  | lineConfig =>
    refine inv.reply _ _ h fun data t e => ?_
    split at e
    · obtain ⟨l, -, e⟩ := bind_eq_ok e
      obtain ⟨-, e⟩ := require_bind_eq_ok e
      obtain ⟨-, e⟩ := require_bind_eq_ok e
      obtain ⟨-, rfl⟩ := Prod.mk.inj (Except.ok.inj e)
      exact inv.lineSame h rfl
    · cases e
  | lineStart =>
    refine inv.reply _ _ h fun data t e => ?_
    split at e
    · obtain ⟨l, -, e⟩ := bind_eq_ok e
      exact inv.lineStart h e
    · cases e
  | lineStop =>
    simp only [Machine.ownerAct, actLineStop]
    split
    · split
      · exact inv.lineStop tag _ h
      · exact inv.post _ _ _ _ h
    · exact inv.post _ _ _ _ h
  | lineReset =>
    refine inv.reply _ _ h fun data t e => ?_
    split at e
    · obtain ⟨l, -, e⟩ := bind_eq_ok e
      obtain ⟨-, rfl⟩ := Prod.mk.inj (Except.ok.inj e)
      exact inv.lineResetAct l h
    · cases e
  | lineStatus =>
    refine inv.replyShows _ _ h fun data t e => ?_
    split at e
    · obtain ⟨l, -, e⟩ := bind_eq_ok e
      exact (Prod.mk.inj (Except.ok.inj e)).2.symm
    · cases e
  | pollNow =>
    refine inv.reply _ _ h fun data t e => ?_
    split at e
    · obtain ⟨i, -, e⟩ := bind_eq_ok e
      obtain ⟨-, e⟩ := require_bind_eq_ok e
      obtain ⟨-, e⟩ := require_bind_eq_ok e
      split at e
      · cases e; exact h
      · obtain ⟨-, e⟩ := require_bind_eq_ok e
        cases e
        exact inv.urgentEnter _ i h
    · cases e
  | attnMask =>
    refine inv.reply _ _ h fun data t e => ?_
    split at e
    · obtain ⟨-, e⟩ := require_bind_eq_ok e
      obtain ⟨-, rfl⟩ := Prod.mk.inj (Except.ok.inj e)
      exact inv.setAu _ h
    · cases e
  | attnPeek =>
    refine inv.replyShows _ _ h fun data t e => ?_
    obtain ⟨-, e⟩ := require_bind_eq_ok e
    exact (Prod.mk.inj (Except.ok.inj e)).2.symm

/-! ## The host link (R157 to R167) -/

theorem StepInvariant.startTx (inv : StepInvariant P) {s : State} (h : P s) : P (startTx s) := inv.same h (sameCore_startTx s)

theorem StepInvariant.setLink (inv : StepInvariant P) {s : State} {g : Hli} (h : P s)
    (e : g.outstanding = s.hli.outstanding) : P (s.setHli g) := inv.same h (sameCore_setHli e)

theorem rejectionOf_ok {tag kind : Byte} {crcGood : Bool} {k : ReqKind} (h : rejectionOf tag kind crcGood = .ok k) : tag ≠ 0#8 := by
  unfold rejectionOf at h
  split at h
  · cases h
  · split at h
    · cases h
    · split at h
      · cases h
      · assumption

theorem StepInvariant.judgeRecord (inv : StepInvariant P) {s : State} (r : Handed) (h : P s) : P (judgeRecord r s) := by
  have immediate : ∀ tag kind code, P (Machine.immediate tag kind code s) := fun _ _ _ => inv.same h (sameCore_immediate _ _ _ s)
  unfold Machine.judgeRecord
  split
  · exact immediate _ _ _
  · split
    · exact immediate _ _ _
    · rename_i k hk
      unfold admitRequest
      split
      · exact immediate _ _ _
      · split
        · exact immediate _ _ _
        · rename_i htag hroom
          exact inv.ownerAct k _ _ (inv.admits k h (rejectionOf_ok hk) (by simpa using htag) (by omega))

theorem StepInvariant.takeHostByte (inv : StepInvariant P) {s : State} (b : Byte) (h : P s) : P (takeHostByte s b) := by
  unfold Machine.takeHostByte
  split
  · exact h
  · have framed : P (s.setHli { s.hli with framer := (s.hli.framer.take b).1 }) := inv.setLink h rfl
    simp only [handOnSome]
    split
    · exact framed
    · unfold handOn
      split
      · exact framed
      · exact inv.startTx (inv.judgeRecord _ framed)

theorem StepInvariant.takeHostBytes (inv : StepInvariant P) (bytes : List Byte) : ∀ {s : State}, P s → P (takeHostBytes bytes s) := by
  induction bytes with
  | nil => exact fun h => h
  | cons b bytes ih => exact fun h => ih (inv.takeHostByte b h)

theorem StepInvariant.discardPartial (inv : StepInvariant P) {s : State} (h : P s) : P (discardPartial s) := by
  unfold Machine.discardPartial
  split
  · exact h
  · exact inv.setLink h rfl

theorem StepInvariant.holdHrxd (inv : StepInvariant P) {s : State} (h : P s) : P (holdHrxd s) := by
  unfold Machine.holdHrxd
  split
  · exact h
  · exact inv.setLink h rfl

theorem StepInvariant.endRecord (inv : StepInvariant P) {s : State} (h : P s) : P (endRecord s) := by
  unfold Machine.endRecord
  split
  · exact h
  · split
    · exact inv.startTx (inv.reset _ _ (inv.setLink h rfl))
    · exact inv.startTx (inv.releases _ h)

theorem quietEvent_keeps {act : State → State} {s : State} (h : P s) (ha : P (act s)) : P (quietEvent act s) := by
  unfold quietEvent
  split
  · exact h
  · exact ha

theorem StepInvariant.loudEvent (inv : StepInvariant P) {act : State → State} {s : State} (h : P s) (ha : P (act s)) :
    P (loudEvent act s) := by
  unfold Machine.loudEvent
  split
  · exact h
  · exact inv.startTx ha

theorem StepInvariant.hostRecord (inv : StepInvariant P) (k : ReqKind) (tag : Byte) (body : List Byte) {s t : State} (h : P s)
    (e : Host.Outcome.next (ρ := Refusal) (φ := Fault) (hostRecord k tag body s) = .next t) : P t := by
  obtain rfl := Host.Outcome.next.inj e
  exact inv.takeHostBytes _ h

/-- Every command keeps a `StepInvariant`. -/
theorem StepInvariant.exec (inv : StepInvariant P) (c : Instr) {s t : State} (h : P s) (e : exec c s = .next t) : P t := by
  cases c with
  | rejection raw => cases e; exact inv.takeHostBytes raw h
  | interByteGapExpiry taken => cases e; exact inv.discardPartial (inv.takeHostBytes taken h)
  | hostStopBitError taken => cases e; exact inv.holdHrxd (inv.discardPartial (inv.takeHostBytes taken h))
  | hostLinkBreak taken => cases e; exact inv.holdHrxd (inv.discardPartial (inv.takeHostBytes taken h))
  | hrdyAsserted => cases e; exact inv.startTx (inv.setLink h rfl)
  | hrdyDeasserted => cases e; exact inv.setLink h rfl
  | recordTransmissionEnd => cases e; exact inv.endRecord h
  | resetnAsserted => cases e; exact inv.setLink (inv.cutLine .b (inv.cutLine .a h)) rfl
  | deviceReset straps => cases e; exact inv.startTx (inv.reset straps s.timebase h)
  | powerOn straps => cases e; exact inv.startTx (inv.reset straps 0 h)
  | visitStart l => cases e; exact quietEvent_keeps h (inv.visitStart l h)
  | turnaroundGapElapsed l =>
    cases e
    refine quietEvent_keeps h ?_
    unfold turnaroundGapElapsed
    split
    · exact h
    · exact inv.sendPending l h
  | gapWaitLimitExpiry l => cases e; exact quietEvent_keeps h (inv.sendPending l h)
  | frameSent l =>
    cases e
    refine quietEvent_keeps h ?_
    unfold frameSent
    split
    · split
      · exact inv.lineSame h rfl
      · exact h
    · exact h
  | replyTimeout l =>
    cases e
    refine inv.loudEvent h ?_
    unfold replyTimeout
    split
    · split
      · exact inv.attemptFailed l _ h
      · exact h
    · exact h
  | intraFrameGapExpiry l =>
    cases e
    refine inv.loudEvent h ?_
    unfold intraFrameGapExpiry
    split
    · split
      · exact inv.attemptFailed l _ h
      · exact h
    · exact h
  | fieldCharacterReceived l ch => cases e; exact inv.loudEvent h (inv.fieldChar l ch h)
  | replyFrameReceived l chars => cases e; exact inv.loudEvent h (inv.replyFrame l chars h)
  | broadcastWindow l => cases e; exact inv.loudEvent h (inv.broadcastWindow l h)
  | bcastFrameEnd l => cases e; exact quietEvent_keeps h (inv.bcastFrameEnd l h)
  | roundPeriodElapsed l => cases e; exact quietEvent_keeps h (inv.roundPeriodElapsed l h)
  | fieldReceiveInputReturnsHigh l => cases e; exact quietEvent_keeps h (inv.lineSame (l := l) h rfl)
  | hrxdReturnsHigh =>
    cases e
    unfold releaseHrxd
    split
    · exact h
    · exact inv.setLink h rfl
  | _ => exact inv.hostRecord _ _ _ h e

/-- Every step keeps a `StepInvariant` that does not read the queue. -/
theorem StepInvariant.step (inv : StepInvariant P) (hq : ∀ (s : State) (q : List Instr), P s → P { s with pending := q })
    {s t : State} (h : P s) (e : step s = .next t) : P t := by
  unfold Machine.step at e
  split at e
  · cases e; exact h
  · exact inv.exec _ (hq s _ h) e

end Sys2Proof.Machine
end

section
/-!
The five invariants of every step: the pool marks and the hold state, the outstanding requests, the urgent queues, the cells and
records, and the places (R20, R33, R62, R64, R70, R73, R74, R106, R160).
-/

namespace Sys2Proof.Machine

/-! ## The pool marks and the hold state (R73, R74) -/

theorem reset_poolGood : Store.reset.poolGood := by
  refine ⟨by unfold Store.marksOrdered; decide, ?_, ?_⟩
  · intro h; simp [Store.reset, Config.cells, Config.holdMark] at h
  · intro _; rfl

theorem poolRule_invariant : StepInvariant PoolRule where
  reset _ _ _ := reset_poolGood
  same h e := by rw [poolRule_iff, e.store]; exact h
  admits _ h _ _ _ := h
  releases _ h := h
  line h _ := by rw [poolRule_iff, setLc_store]; exact h
  drop h _ _ := h
  frees h _ _ := freeAll_pool _ _ h
  takes h _ _ _ _ := takeAway_pool _ _ h
  bcasts h _ _ := dropDone_pool _ h
  queues h _ _ _ := queueBroadcast_pool _ _ _ _ h
  marks _ hm := setMarks_pool hm _

/-- Settles O57: the rule reads the store alone, and each act on the free lists ends with an evaluation on the marks. -/
theorem stepKeepsPoolRule : Obligations.StepKeepsPoolRule := fun _ _ h e => poolRule_invariant.step (fun _ _ h => h) h e

/-! ## The outstanding requests (R160) -/

theorem tags_eq_requests (h : Hli) : h.outstanding.map Outstanding.tag = h.requests.map Prod.fst := by simp [Hli.requests]

/-- The rule reads no more than the tags and kinds. -/
theorem outstandingRule_congr {s t : State} (e : t.hli.requests = s.hli.requests) (h : OutstandingRule s) : OutstandingRule t := by
  have hlen : t.hli.outstanding.length = s.hli.outstanding.length := by simpa [Hli.requests] using congrArg List.length e
  simpa [OutstandingRule, hlen, tags_eq_requests, e] using h

theorem outstandingRule_admits {s : State} {tag : Byte} (k : ReqKind) (h : OutstandingRule s) (ht : tag ≠ 0#8)
    (hu : s.hli.tagInUse tag = false) (hl : s.hli.outstanding.length < Config.outstandingMax) :
    OutstandingRule (admitEntry tag k s) := by
  obtain ⟨-, hnodup, hzero⟩ := h
  have hnew : tag ∉ s.hli.outstanding.map Outstanding.tag := by simpa [Hli.tagInUse] using hu
  refine ⟨?_, ?_, ?_⟩
  · simpa [admitEntry] using hl
  · simp only [admitEntry, setHli_hli, List.map_append, List.map_cons, List.map_nil]
    exact List.nodup_append.mpr ⟨hnodup, by simp, fun a ha b hb e => hnew (by simp at hb; rw [← hb, ← e]; exact ha)⟩
  · simp only [admitEntry, setHli_hli, List.map_append, List.mem_append, not_or]
    exact ⟨hzero, by simpa using Ne.symm ht⟩

theorem outstandingRule_sublist {s : State} {g : Hli} (hg : g.outstanding.Sublist s.hli.outstanding) (h : OutstandingRule s) :
    OutstandingRule (s.setHli g) :=
  ⟨hg.length_le.trans h.1, h.2.1.sublist (hg.map _), fun hz => h.2.2 ((hg.map _).subset hz)⟩

theorem freeTx_outstanding (r : OutRecord) (h : Hli) : (freeTx r h).outstanding.Sublist h.outstanding := by
  unfold freeTx
  split
  · exact .refl _
  · exact .refl _
  · exact List.filter_sublist
  · exact List.filter_sublist

theorem outstandingRule_invariant : StepInvariant OutstandingRule where
  reset _ _ _ := ⟨Nat.zero_le _, .nil, List.not_mem_nil⟩
  same h e := outstandingRule_congr e.requests h
  admits k h ht hu hl := outstandingRule_admits k h ht hu hl
  releases r h := outstandingRule_sublist (freeTx_outstanding r _) h
  line h _ := outstandingRule_congr (by simp) h
  drop h _ _ := h
  frees h _ _ := h
  takes h _ _ _ _ := h
  bcasts h _ _ := outstandingRule_congr (by simp) h
  queues h _ _ _ := h
  marks h _ := h

/-! ## The urgent queues (R106) -/

theorem urgentRule_congr {s t : State} (e : ∀ l, t.lc l = s.lc l) (h : UrgentRule s) : UrgentRule t := fun l => by
  rw [e l]; exact h l

theorem urgentRule_line {s : State} {l : Line} {c : LineCtl} (h : UrgentRule s) (hc : (s.lc l).UrgentGood → c.UrgentGood) :
    UrgentRule (s.setLc l c) := by
  intro m
  rw [setLc_lc]
  split
  · exact hc (h l)
  · exact h m

theorem urgentRule_invariant : StepInvariant UrgentRule where
  reset _ _ _ := fun l => by cases l <;> exact ⟨Nat.zero_le _, .nil⟩
  same h e := urgentRule_congr e.lc h
  admits k h _ _ _ := urgentRule_congr (by simp) h
  releases r h := urgentRule_congr (by simp) h
  line h hc := urgentRule_line h hc
  drop h _ _ := urgentRule_congr (by simp) h
  frees h _ _ := urgentRule_congr (by simp) h
  takes h _ _ _ _ := urgentRule_congr (by simp) h
  bcasts h _ _ := urgentRule_congr (by simp) h
  queues h _ _ _ := urgentRule_congr (by simp [queueBroadcast]) h
  marks h _ := urgentRule_congr (by simp [setMarks]) h

/-- Settles O58: a request is admitted only with a new tag and room for it, and a drop enters an urgent queue only where it
does not stand and there is room. -/
theorem stepKeepsBoundedTables : Obligations.StepKeepsBoundedTables := fun _ _ e =>
  ⟨fun h => outstandingRule_invariant.step (fun _ _ h => h) h e, fun h => urgentRule_invariant.step (fun _ _ h => urgentRule_congr (fun l => by cases l <;> rfl) h) h e⟩

/-! ## The cells and the records (R20, R62, R64, R70) -/

/-- Two tables that differ in one slot at most: what they list is what they list for that slot, with the same rest. -/
theorem flatMap_allSlots_rest {f g : Slot → List Nat} {i : Slot} (h : ∀ j, j ≠ i → g j = f j) :
    ∃ rest, (allSlots.flatMap f).Perm (f i ++ rest) ∧ (allSlots.flatMap g).Perm (g i ++ rest) := by
  have hp : allSlots.Perm (i :: allSlots.erase i) := List.perm_cons_erase (by simp [allSlots])
  have hg : (allSlots.erase i).flatMap g = (allSlots.erase i).flatMap f := by
    refine List.flatMap_congr fun j hj => h j fun e => ?_
    subst e
    exact (List.nodup_finRange 64).not_mem_erase hj
  refine ⟨(allSlots.erase i).flatMap f, hp.flatMap_right f, ?_⟩
  rw [← hg]
  exact hp.flatMap_right g

/-- What changes in the table when the entry of a slot does. -/
theorem flatMap_setDrop {s t : State} {i : Slot} {e : Drop} (hd : ∀ j, t.drop j = (s.setDrop i e).drop j) (f : Drop → List Nat) :
    ∃ rest, (allSlots.flatMap (fun j => f (s.drop j))).Perm (f (s.drop i) ++ rest) ∧
      (allSlots.flatMap (fun j => f (t.drop j))).Perm (f e ++ rest) := by
  obtain ⟨rest, h1, h2⟩ := flatMap_allSlots_rest (f := fun j => f (s.drop j)) (g := fun j => f (t.drop j)) (i := i)
    fun j hj => by rw [hd, setDrop_drop, if_neg hj]
  exact ⟨rest, h1, by simpa [hd] using h2⟩

/-- The table of one kind of number, cells or records: the free ones, those of the drops and those of the broadcasts. -/
def tally (free : List Nat) (slots : List Nat) (bcasts : List Nat) : List Nat := free ++ slots ++ bcasts

/-- The numbers stay the same when a slot gives up as many as the free list gains. -/
theorem tally_moves {free free' old new rest slots slots' out back bcasts : List Nat} (hs : slots.Perm (old ++ rest))
    (hs' : slots'.Perm (new ++ rest)) (hold : (old ++ back).Perm (out ++ new)) (hfree : (free' ++ back).Perm (free ++ out)) :
    (tally free' slots' bcasts).Perm (tally free slots bcasts) := by
  rw [List.perm_iff_count] at *
  intro a
  have h1 := hs a
  have h2 := hs' a
  have h3 := hold a
  have h4 := hfree a
  simp only [tally, List.count_append] at *
  omega

theorem storeConserved_congr {s t : State} (hd : ∀ j, t.drop j = s.drop j) (hc : t.store.freeCells = s.store.freeCells)
    (hr : t.store.freeRecords = s.store.freeRecords) (hb : t.store.bcasts = s.store.bcasts) (h : StoreConserved s) :
    StoreConserved t := by
  simpa [StoreConserved, State.allCells, State.allRecords, hd, hc, hr, hb] using h

/-- An entry replaced, with cells and records that go from it to the free lists, or from them to it. -/
theorem storeConserved_setDrop {s t : State} {i : Slot} {e : Drop} {cells recs cells' recs' : List Nat}
    (hd : ∀ j, t.drop j = (s.setDrop i e).drop j) (hb : t.store.bcasts = s.store.bcasts)
    (hcells : ((s.drop i).chainCellNos ++ cells').Perm (cells ++ e.chainCellNos))
    (hrecs : ((s.drop i).messageRecs ++ recs').Perm (recs ++ e.messageRecs)) (he : e.emptyUnlessLive)
    (hc : (t.store.freeCells ++ cells').Perm (s.store.freeCells ++ cells))
    (hr : (t.store.freeRecords ++ recs').Perm (s.store.freeRecords ++ recs)) (h : StoreConserved s) : StoreConserved t := by
  obtain ⟨h1, h2, h3, h4⟩ := h
  obtain ⟨restc, hs, hs'⟩ := flatMap_setDrop hd Drop.chainCellNos
  obtain ⟨restr, hq, hq'⟩ := flatMap_setDrop hd Drop.messageRecs
  refine ⟨?_, ?_, fun j => ?_, by rw [hb]; exact h4⟩
  · refine List.Perm.trans ?_ h1
    rw [State.allCells, hb]
    exact tally_moves hs hs' hcells hc
  · refine List.Perm.trans ?_ h2
    rw [State.allRecords, hb]
    exact tally_moves hq hq' hrecs hr
  · rw [hd, setDrop_drop]
    split
    · exact he
    · exact h3 j

theorem perm_drop_take {l : List Nat} (n : Nat) : (l.drop n ++ l.take n).Perm (l ++ []) := by
  rw [List.append_nil]
  exact List.perm_append_comm.trans (.of_eq (List.take_append_drop n l))

/-- Broadcasts that leave lines: those that wait on none give up their cells and records. -/
theorem storeConserved_bcasts {s : State} {bs : List Bcast}
    (hc : bs.map (fun b => b.cell.no) = s.store.bcasts.map (fun b => b.cell.no))
    (hr : bs.map Bcast.recNo = s.store.bcasts.map Bcast.recNo) (h : StoreConserved s) : StoreConserved (dropDone bs s) := by
  obtain ⟨h1, h2, h3, -⟩ := h
  obtain ⟨hb, hfc, hfr⟩ := dropDone_store bs s
  have split (f : Bcast → Nat) : (bs.map f).Perm ((bs.filter Bcast.done).map f ++ (bs.filter (fun b => !b.done)).map f) := by
    rw [← List.map_append]
    exact ((List.filter_append_perm Bcast.done bs).map f).symm
  refine ⟨?_, ?_, fun j => by rw [dropDone_drop]; exact h3 j, ?_⟩
  · refine List.Perm.trans ?_ h1
    have := split (fun b => b.cell.no)
    simp only [State.allCells, hb, hfc, dropDone_drop, ← hc]
    rw [List.perm_iff_count] at *
    intro a
    have := this a
    simp only [List.count_append] at *
    omega
  · refine List.Perm.trans ?_ h2
    have := split Bcast.recNo
    simp only [State.allRecords, hb, hfr, dropDone_drop, ← hr]
    rw [List.perm_iff_count] at *
    intro a
    have := this a
    simp only [List.count_append] at *
    omega
  · intro b hmem
    rw [hb] at hmem
    have := (List.mem_filter.mp hmem).2
    simp only [Bcast.done, Bool.not_and, Bool.not_not, Bool.or_eq_true] at this
    exact this

theorem queueBroadcast_store (a b : Bool) (t : Target) (payload : List Byte) (s : State) :
    (queueBroadcast a b t payload s).store.bcasts = s.store.bcasts ++ [{
        recNo := s.nextRecord, cell := { no := s.store.freeCells.headD 0, data := payload }, target := t, onA := a, onB := b }] ∧
      (queueBroadcast a b t payload s).store.freeCells = s.store.freeCells.drop 1 ∧
      (queueBroadcast a b t payload s).store.freeRecords = s.store.freeRecords.drop 1 := by
  refine ⟨?_, ?_, ?_⟩ <;> rw [queueBroadcast, takeAway_store] <;> rfl

theorem storeConserved_queues {s : State} {a b : Bool} {t : Target} {payload : List Byte} (hon : a = true ∨ b = true)
    (hc : s.store.freeCells ≠ []) (hr : s.store.freeRecords ≠ []) (h : StoreConserved s) :
    StoreConserved (queueBroadcast a b t payload s) := by
  obtain ⟨h1, h2, h3, h4⟩ := h
  obtain ⟨hb, hfc, hfr⟩ := queueBroadcast_store a b t payload s
  have hdrop : ∀ j, (queueBroadcast a b t payload s).drop j = s.drop j := by simp [queueBroadcast]
  have taken {l : List Nat} (hl : l ≠ []) : l = l.headD 0 :: l.drop 1 := by
    cases l with
    | nil => exact absurd rfl hl
    | cons x xs => rfl
  refine ⟨?_, ?_, fun j => by rw [hdrop]; exact h3 j, ?_⟩
  · refine List.Perm.trans ?_ h1
    simp only [State.allCells, hb, hfc, hdrop, List.map_append, List.map_cons, List.map_nil]
    rw [List.perm_iff_count]
    intro x
    have := congrArg (List.count x) (taken hc)
    simp only [List.count_append, List.count_cons, List.count_nil] at *
    omega
  · refine List.Perm.trans ?_ h2
    simp only [State.allRecords, hb, hfr, hdrop, List.map_append, List.map_cons, List.map_nil, State.nextRecord]
    rw [List.perm_iff_count]
    intro x
    have := congrArg (List.count x) (taken hr)
    simp only [List.count_append, List.count_cons, List.count_nil] at *
    omega
  · intro x hx
    rw [hb, List.mem_append, List.mem_singleton] at hx
    rcases hx with hx | rfl
    · exact h4 x hx
    · exact hon

theorem reset_drop (straps : Straps) (n : Nat) (s : State) (i : Slot) : (resetBlocks straps n s).drop i = .vacant 0 := by
  simp [State.drop, resetBlocks, State.reset]

theorem storeConserved_reset (straps : Straps) (n : Nat) (s : State) : StoreConserved (resetBlocks straps n s) := by
  have hcells : (Drop.vacant 0).chainCellNos = [] := rfl
  have hrecs : (Drop.vacant 0).messageRecs = [] := rfl
  have hnone : allSlots.flatMap (fun _ => ([] : List Nat)) = [] := List.flatMap_eq_nil_iff.mpr fun _ _ => rfl
  refine ⟨?_, ?_, fun i => ?_, fun b hb => absurd hb List.not_mem_nil⟩
  · simp only [State.allCells, reset_drop, hcells, hnone]
    simp [resetBlocks, State.reset, Store.reset]
  · simp only [State.allRecords, reset_drop, hrecs, hnone]
    simp [resetBlocks, State.reset, Store.reset]
  · rw [reset_drop]
    exact .inr ⟨rfl, rfl, rfl⟩

theorem storeConserved_invariant : StepInvariant StoreConserved where
  reset straps n _ := storeConserved_reset straps n _
  same h e := storeConserved_congr e.drop (by rw [e.store]) (by rw [e.store]) (by rw [e.store]) h
  admits k h _ _ _ := storeConserved_congr (by simp) rfl rfl rfl h
  releases r h := storeConserved_congr (by simp) rfl rfl rfl h
  line h _ := storeConserved_congr (by simp) (by simp) (by simp) (by simp) h
  drop {s i _} h hc _ := by
    obtain ⟨hcells, hrecs, he⟩ := hc (h.2.2.1 i)
    exact storeConserved_setDrop (cells := []) (recs := []) (cells' := []) (recs' := []) (fun _ => rfl) rfl
      (by simp [hcells]) (by simp [hrecs]) he .rfl .rfl h
  frees {s i _ _ _} h hc _ := by
    obtain ⟨hcells, hrecs, he⟩ := hc (h.2.2.1 i)
    exact storeConserved_setDrop (i := i) (cells' := []) (recs' := []) (by simp) (by rw [freeAll_store]; rfl)
      (by simpa using hcells) (by simpa using hrecs) he (by rw [freeAll_store]; simp) (by rw [freeAll_store]; simp) h
  takes {s i _ m n} h _ _ hg _ := by
    obtain ⟨hcells, hrecs, hlive⟩ := hg
    exact storeConserved_setDrop (i := i) (cells := []) (recs := []) (by simp) (by rw [takeAway_store]; rfl)
      (List.perm_append_comm.trans hcells.symm) (List.perm_append_comm.trans hrecs.symm) (.inl hlive)
      (by rw [takeAway_store]; exact perm_drop_take m) (by rw [takeAway_store]; exact perm_drop_take n) h
  bcasts h hc hr := storeConserved_bcasts hc hr h
  queues h hon hc hr := storeConserved_queues hon hc hr h
  marks h _ := storeConserved_congr (by simp [setMarks]) rfl rfl rfl h

/-- Settles O59: an act gives to a message what it takes from the free lists, and gives back what a message held. -/
theorem stepKeepsTheStore : Obligations.StepKeepsTheStore := fun _ _ h e => storeConserved_invariant.step (fun _ _ h => h) h e

/-! ## The places (R20, R33) -/

theorem placesUnique_congr {s t : State} (hd : ∀ j, t.drop j = s.drop j) (h : PlacesUnique s) : PlacesUnique t := by
  simpa [PlacesUnique, hd] using h

theorem placesUnique_setDrop {s t : State} {i : Slot} {e : Drop} (hd : ∀ j, t.drop j = (s.setDrop i e).drop j)
    (hroom : s.RoomFor i e) (h : PlacesUnique s) : PlacesUnique t := by
  obtain ⟨hapart, hvacant⟩ := h
  obtain ⟨hplaces, he⟩ := hroom (hvacant i)
  have others : ∀ j l a, j ≠ i → e.holds l a = true → (s.drop j).holds l a = false := by
    intro j l a hj ha
    rcases hplaces l a ha with hown | hfree
    · exact hapart i j l a (Ne.symm hj) hown
    · exact (placeTaken_eq_false s l a i).mp hfree j hj
  refine ⟨fun j k l a hjk hj => ?_, fun j hj => ?_⟩
  · rw [hd, setDrop_drop] at hj ⊢
    split at hj
    · rename_i hji
      rw [if_neg (fun hki => hjk (hji.trans hki.symm))]
      exact others k l a (fun hki => hjk (hji.trans hki.symm)) hj
    · rename_i hji
      split
      · by_contra hk
        have := others j l a hji (by simpa using hk)
        simp [this] at hj
      · exact hapart j k l a hjk hj
  · rw [hd, setDrop_drop] at hj ⊢
    split
    · rw [if_pos ‹_›] at hj
      exact he hj
    · rw [if_neg ‹_›] at hj
      exact hvacant j hj

theorem placesUnique_invariant : StepInvariant PlacesUnique where
  reset _ _ _ := by
    refine ⟨fun i j l a _ hi => ?_, fun i _ => by rw [reset_drop]; rfl⟩
    rw [reset_drop] at hi
    exact absurd hi Bool.false_ne_true
  same h e := placesUnique_congr e.drop h
  admits k h _ _ _ := placesUnique_congr (by simp) h
  releases r h := placesUnique_congr (by simp) h
  line h _ := placesUnique_congr (by simp) h
  drop h _ hroom := placesUnique_setDrop (fun _ => rfl) hroom h
  frees h _ hroom := placesUnique_setDrop (by simp) hroom h
  takes h _ _ _ hroom := placesUnique_setDrop (by simp) hroom h
  bcasts h _ _ := placesUnique_congr (by simp) h
  queues h _ _ _ := placesUnique_congr (by simp [queueBroadcast]) h
  marks h _ := placesUnique_congr (by simp [setMarks]) h

/-- Settles O60: an entry takes or reserves only a place that no other entry has taken. -/
theorem stepKeepsPlacesUnique : Obligations.StepKeepsPlacesUnique := fun _ _ h e => placesUnique_invariant.step (fun _ _ h => h) h e

end Sys2Proof.Machine
end

section
/-!
The queue of commands, and what a reset is and does (R19, R66, R110, R136, R139, R167, R175).
-/

namespace Sys2Proof.Machine

/-! ## The queue of commands -/

/-- Settles O1: by the definition of a step. -/
theorem stepTakesTheFrontCommand : Obligations.StepTakesTheFrontCommand :=
  ⟨fun _ _ _ => rfl, fun s h => by rw [step, h]⟩

/-- The queue is one of the things that no act reads or changes: as a property of a state, every command keeps it. -/
theorem pending_invariant (q : List Instr) : StepInvariant (fun s => s.pending = q) where
  reset _ _ h := h
  same h e := e.pending.trans h
  admits _ h _ _ _ := h
  releases _ h := h
  line h _ := by rw [setLc_pending]; exact h
  drop h _ _ := h
  frees h _ _ := by rw [freeAll_pending]; exact h
  takes h _ _ _ _ := by rw [takeAway_pending]; exact h
  bcasts h _ _ := by rw [dropDone_pending]; exact h
  queues h _ _ _ := by rw [queueBroadcast, takeAway_pending]; exact h
  marks h _ := by rw [setMarks, evalPool_pending]; exact h

/-- No command faults and none is refused. -/
theorem exec_completes (c : Instr) (s : State) : ∃ t, exec c s = .next t := by cases c <;> exact ⟨_, rfl⟩

/-- Settles O2: every meaning answers a next state, and the queue is an invariant of every command. -/
theorem everyCommandCompletes : Obligations.EveryCommandCompletes := fun c s => by
  obtain ⟨t, e⟩ := exec_completes c s
  exact ⟨t, e, (pending_invariant s.pending).exec c rfl e⟩

/-! ## The state after a reset -/

theorem resetState_drop (i : Slot) : State.reset.drop i = .vacant 0 := by simp [State.drop, State.reset]

theorem resetState_lc (l : Line) : State.reset.lc l = .reset := by cases l <;> rfl

/-- After a reset RESTARTED is pending and nothing else is (R175). -/
theorem resetState_condPending (c : Cond) : State.reset.condPending c = true ↔ c = .restarted := by
  have slot : ∀ i, State.reset.au.slot i = .clear := fun i => by simp [Attn.slot, State.reset, Attn.reset]
  have line : ∀ l, State.reset.au.line l = .clear := fun l => by cases l <;> rfl
  cases c with
  | restarted => simp [State.condPending, State.reset, Attn.reset]
  | lineFault l => simp [State.condPending, State.lineFault, resetState_lc, LineCtl.reset]
  | failover l => simp [State.condPending, line, LineAttn.clear]
  | poolHold => simp [State.condPending, State.reset, Store.reset]
  | poolLow =>
    simp [State.condPending, State.low, State.freeCount, State.reset, Store.reset, Config.cells, Config.lowMark]
  | replyLost => simp [State.condPending, State.reset, Attn.reset]
  | bcastDropped l => simp [State.condPending, line, LineAttn.clear]
  | dropState i => simp [State.condPending, slot, SlotAttn.clear]
  | inboxAlert i => simp [State.condPending, slot, SlotAttn.clear]
  | inboxReady i => simp [State.condPending, resetState_drop, Drop.vacant, Drop.inboxReady, DropState.live]
  | outboxLow i => simp [State.condPending, slot, SlotAttn.clear]

/-- Settles O3: field by field. -/
theorem resetValues : Obligations.ResetValues := by
  refine ⟨rfl, rfl, rfl, rfl, rfl, rfl, resetState_drop, rfl, ?_, ?_, rfl, rfl, rfl, rfl, rfl, fun l => ?_, rfl,
    resetState_condPending⟩
  · simp [State.reset, Store.reset, Config.cells]
  · simp [State.reset, Store.reset, Config.records]
  · rw [resetState_lc]
    exact ⟨rfl, rfl, rfl, rfl, rfl, rfl, rfl, rfl, rfl, rfl⟩

/-- Settles O4: the state after a reset has the drops, the store, the lines and the outstanding requests of the blocks that
every reset gives. -/
theorem invariantsHoldAtReset : Obligations.InvariantsHoldAtReset := by
  refine ⟨reset_poolGood, ⟨Nat.zero_le _, .nil, List.not_mem_nil⟩, fun l => ?_, ?_, ?_⟩
  · rw [resetState_lc]
    exact ⟨Nat.zero_le _, .nil⟩
  · exact storeConserved_congr (s := resetBlocks ⟨false, false⟩ 0 State.reset) (fun i => by rw [resetState_drop, reset_drop]) rfl
      rfl rfl (storeConserved_reset _ _ _)
  · refine ⟨fun i j l a _ hi => ?_, fun i _ => by rw [resetState_drop]; rfl⟩
    rw [resetState_drop] at hi
    exact absurd hi Bool.false_ne_true

/-- Settles O5: the blocks take their reset values, and the transmitter chooses. -/
theorem deviceResetAndPowerOn : Obligations.DeviceResetAndPowerOn := fun _ _ => ⟨rfl, rfl⟩

/-! ## RESETN taken low (R110, R136, R167) -/

theorem cutLine_lc_eq (l m : Line) (s : State) :
    (cutLine l s).lc m =
      if m = l then { s.lc m with visit := none, bcastFrame := none, receiver := .notWaiting } else s.lc m := by
  obtain ⟨hsame, hother⟩ := cutLine_lc l s
  rcases line_cases l m with rfl | rfl
  · rw [hsame, if_pos rfl]
  · rw [hother, if_neg (other_ne l)]

/-- The lines and the drops when both lines are cut. -/
theorem enterReset_lines (s : State) (l : Line) :
    (enterReset s).lc l = { s.lc l with visit := none, bcastFrame := none, receiver := .notWaiting } := by
  cases l <;> simp [enterReset, cutLine_lc_eq]

theorem enterReset_drop (s : State) (i : Slot) :
    (enterReset s).drop i = { s.drop i with link := { (s.drop i).link with
      inFlight := (s.drop i).link.inFlight &&
        !(s.lcA.visit.any (fun v => v.slot == i)) && !(s.lcB.visit.any (fun v => v.slot == i)) } } := by
  have hb : (cutLine .a s).lc .b = s.lcB := (cutLine_lc .a s).2
  simp only [enterReset, setHli_drop, cutLine_drop, hb]
  rfl

theorem enterReset_hli (s : State) : (enterReset s).hli = { s.hli with inReset := true, tx := none } := by
  simp [enterReset]

/-- A drop is visited on some line. -/
def State.visited (s : State) (i : Slot) : Prop := ∃ l v, (s.lc l).visit = some v ∧ v.slot = i

theorem enterReset_visited {s : State} {i : Slot} (h : s.visited i) : ((enterReset s).drop i).link.inFlight = false := by
  obtain ⟨l, v, hv, rfl⟩ := h
  rw [enterReset_drop]
  cases l
  · have hv : s.lcA.visit = some v := hv
    simp [hv]
  · have hv : s.lcB.visit = some v := hv
    simp [hv]

theorem enterReset_notVisited {s : State} {i : Slot} (h : ¬ s.visited i) : (enterReset s).drop i = s.drop i := by
  have none : ∀ l, (s.lc l).visit.any (fun v => v.slot == i) = false := by
    intro l
    cases hv : (s.lc l).visit with
    | none => rfl
    | some v => simpa using fun e => h ⟨l, v, hv, e⟩
  have ha := none .a
  have hb := none .b
  rw [enterReset_drop]
  simp only [State.lc] at ha hb
  simp [ha, hb]

/-- Settles O6: the two lines are cut one after the other, and the host link holds the part in reset. -/
theorem resetnCutsOff : Obligations.ResetnCutsOff := by
  intro s
  refine ⟨enterReset s, rfl, enterReset_hli s, enterReset_lines s, fun l v hv => enterReset_visited ⟨l, v, hv, rfl⟩,
    fun i => ?_, fun i hi => enterReset_notVisited ?_, ?_, ?_, ?_, ?_⟩
  · rw [enterReset_drop]
  · rintro ⟨l, v, hv, e⟩
    exact hi l v hv e
  all_goals simp [enterReset]

/-! ## While RESETN is low (R167) -/

theorem takeHostBytes_deaf {s : State} (h : s.hli.inReset = true ∨ s.hli.hrxdLow = true) (bytes : List Byte) :
    takeHostBytes bytes s = s := by
  have step : ∀ b, takeHostByte s b = s := by
    intro b
    rcases h with h | h <;> simp [takeHostByte, h]
  induction bytes with
  | nil => rfl
  | cons b bytes ih => rw [takeHostBytes, List.foldl_cons, step]; exact ih

theorem quietEvent_held {s : State} (h : s.hli.inReset = true) (act : State → State) : quietEvent act s = s := if_pos h

theorem loudEvent_held {s : State} (h : s.hli.inReset = true) (act : State → State) : loudEvent act s = s := if_pos h

/-- Settles O7: in reset no byte is taken, and no event of a line acts. -/
theorem resetHoldsThePart : Obligations.ResetHoldsThePart := by
  intro s h
  have deaf := takeHostBytes_deaf (.inl h)
  have discard : discardPartial s = s := if_pos h
  have hold : holdHrxd s = s := if_pos h
  have quiet (act : State → State) : Host.Outcome.next (φ := Fault) (ρ := Refusal) (quietEvent act s) = .next s := by
    rw [quietEvent_held h]
  have loud (act : State → State) : Host.Outcome.next (φ := Fault) (ρ := Refusal) (loudEvent act s) = .next s := by
    rw [loudEvent_held h]
  refine ⟨fun k tag body => ?_, fun raw => ⟨?_, ?_, ?_, ?_⟩, ?_, fun l => ?_⟩
  · rw [exec_command, hostRecord, deaf]
  · simp only [exec, execRejection, deaf]
  · simp only [exec, execInterByteGapExpiry, deaf, discard]
  · simp only [exec, execHostStopBitError, deaf, discard, hold]
  · simp only [exec, execHostLinkBreak, deaf, discard, hold]
  · exact congrArg Host.Outcome.next (if_pos h)
  · exact ⟨quiet _, quiet _, quiet _, quiet _, loud _, loud _, loud _, quiet _, quiet _, quiet _, fun _ => loud _, fun _ => loud _⟩

end Sys2Proof.Machine
end

section
/-!
The host link: the framer over the bytes of a record, rejection and admission, the discarded partial record, and the transmitter
(R156 to R163, R166).
-/

namespace Sys2Proof.Machine

/-! ## The framer over a run of bytes (R157) -/

theorem runFramer_cons (f : Framer) (b : Byte) (bs : List Byte) :
    runFramer f (b :: bs) =
      ((runFramer (f.take b).1 bs).1, (f.take b).2.toList ++ (runFramer (f.take b).1 bs).2) := rfl

/-- A byte that hands on no record. -/
theorem runFramer_quiet {f g : Framer} {b : Byte} (h : f.take b = (g, none)) (bs : List Byte) :
    runFramer f (b :: bs) = runFramer g bs := by simp [runFramer_cons, h]

theorem runFramer_append (f : Framer) (xs ys : List Byte) :
    runFramer f (xs ++ ys) =
      ((runFramer (runFramer f xs).1 ys).1, (runFramer f xs).2 ++ (runFramer (runFramer f xs).1 ys).2) := by
  induction xs generalizing f with
  | nil => rfl
  | cons x xs ih => simp [runFramer_cons, ih]

/-- The body bytes of a record are collected in order. -/
theorem runFramer_body (n t k : Byte) (bs : List Byte) (b : Byte) (got tail : List Byte) :
    runFramer (.body n t k got (bs.length + 1)) (b :: bs ++ tail) = runFramer (.crcHigh n t k (got ++ b :: bs)) tail := by
  induction bs generalizing b got with
  | nil =>
    exact runFramer_quiet (g := .crcHigh n t k (got ++ [b])) (by simp [Framer.take]) tail
  | cons c cs ih =>
    have e : (Framer.body n t k got (cs.length + 1 + 1)).take b = (.body n t k (got ++ [b]) (cs.length + 1), none) := by
      simp [Framer.take]
    rw [List.length_cons, List.cons_append, runFramer_quiet e, ih c (got ++ [b])]
    simp

/-- The bytes of a record, with any CRC: the framer hands it on with the verdict on that CRC. -/
theorem runFramer_record (tag kind : Byte) {body : List Byte} (hb : body.length ≤ 248) (crc : Half) :
    let counted := byteOf (body.length + 2) :: tag :: kind :: body
    runFramer .hunt (Config.startByte :: counted ++ [hiByte crc, loByte crc]) =
      (.hunt, [.whole tag kind body (crc16 counted = crc)]) := by
  have hn : (byteOf (body.length + 2)).toNat = body.length + 2 := byteOf_toNat (by omega)
  generalize byteOf (body.length + 2) = n at hn
  have start : Framer.hunt.take Config.startByte = (.len, none) := by simp [Framer.take]
  have len : Framer.len.take n = (.tag n, none) := by
    simp [Framer.take, hn, Config.lenMin, Config.lenMax]
    omega
  have kindAndBody : ∀ tail, runFramer (.kind n tag) (kind :: body ++ tail) = runFramer (.crcHigh n tag kind body) tail := by
    intro tail
    cases body with
    | nil => exact runFramer_quiet (g := .crcHigh n tag kind []) (by simp [Framer.take, hn]) tail
    | cons b bs =>
      have e : (Framer.kind n tag).take kind = (.body n tag kind [] (bs.length + 1), none) := by simp [Framer.take, hn]
      rw [List.cons_append, runFramer_quiet e]
      exact runFramer_body n tag kind bs b [] tail
  simp only [List.cons_append] at kindAndBody ⊢
  rw [runFramer_quiet start, runFramer_quiet len, runFramer_quiet (g := .kind n tag) rfl, kindAndBody]
  simp [runFramer, Framer.take, halfOf_hi_lo]

/-- A character of the host link, level by level (R156). -/
theorem hostCharLevels_eq (b : Byte) :
    hostCharLevels b =
      [false, b.getLsbD 0, b.getLsbD 1, b.getLsbD 2, b.getLsbD 3, b.getLsbD 4, b.getLsbD 5, b.getLsbD 6, b.getLsbD 7, true] := rfl

theorem htxd_sending {s : State} {r : OutRecord} (hr : s.hli.inReset = false) (ht : s.hli.tx = some r) :
    s.htxd = r.bytes.flatMap hostCharLevels := by simp [State.htxd, hr, ht]

theorem htxd_silent {s : State} (h : s.hli.inReset = true ∨ s.hli.tx = none) : s.htxd = [] := by
  unfold State.htxd
  split
  · rfl
  · rename_i hr
    simp [h.resolve_left hr]

/-- The check value of the CRC, byte by byte (R4). -/
theorem crc16_checkValue :
    crc16 [0x31#8, 0x32#8, 0x33#8, 0x34#8, 0x35#8, 0x36#8, 0x37#8, 0x38#8, 0x39#8] = 0x29B1#16 := by
  have byte1 : crcByte 0xFFFF#16 0x31#8 = 0xC782#16 := by decide
  have byte2 : crcByte 0xC782#16 0x32#8 = 0x3DBA#16 := by decide
  have byte3 : crcByte 0x3DBA#16 0x33#8 = 0x5BCE#16 := by decide
  have byte4 : crcByte 0x5BCE#16 0x34#8 = 0x5349#16 := by decide
  have byte5 : crcByte 0x5349#16 0x35#8 = 0x4560#16 := by decide
  have byte6 : crcByte 0x4560#16 0x36#8 = 0x2EF4#16 := by decide
  have byte7 : crcByte 0x2EF4#16 0x37#8 = 0x7718#16 := by decide
  have byte8 : crcByte 0x7718#16 0x38#8 = 0xA12B#16 := by decide
  have byte9 : crcByte 0xA12B#16 0x39#8 = 0x29B1#16 := by decide
  simp only [crc16, List.foldl, byte1, byte2, byte3, byte4, byte5, byte6, byte7, byte8, byte9]

/-- Settles O8: the check value by evaluation, the framer by `runFramer_record` with the CRC of the record and with any other. -/
theorem crcCheckValueAndFraming : Obligations.CrcCheckValueAndFraming := by
  refine ⟨crc16_checkValue, rfl, fun tag kind body hb => ⟨rfl, ?_, fun other hne => ?_⟩, fun s => ⟨fun r hr ht => ?_, htxd_silent⟩⟩
  · exact (runFramer_record tag kind hb _).trans (by simp)
  · exact (runFramer_record tag kind hb other).trans (by simp [byteOf, Ne.symm hne])
  · rw [htxd_sending hr ht]
    exact congrArg (r.bytes.flatMap ·) (funext hostCharLevels_eq)

/-! ## Bytes taken from HRXD (R157) -/

/-- Bytes that hand on no record move the framer and nothing else. -/
theorem takeHostBytes_partial {s : State} (h : s.hears) {f : Framer} {bs : List Byte} (hp : (runFramer f bs).2 = []) :
    takeHostBytes bs (s.framed f) = s.framed (runFramer f bs).1 := by
  induction bs generalizing f with
  | nil => rfl
  | cons b bs ih =>
    rw [runFramer_cons] at hp ⊢
    obtain ⟨hb, hbs⟩ := List.append_eq_nil_iff.mp hp
    have e : f.take b = ((f.take b).1, none) := Prod.ext rfl (by simpa using hb)
    rw [takeHostBytes, List.foldl_cons, takeHostByte_quiet h e]
    exact ih hbs

/-- The framer is in HUNT after the byte with which it hands on a record. -/
theorem take_hands_hunt {f g : Framer} {b : Byte} {r : Handed} (h : f.take b = (g, some r)) : g = .hunt := by
  cases f with
  | hunt => simp only [Framer.take] at h; split at h <;> simp at h
  | len => simp only [Framer.take] at h; split at h <;> simp at h
  | badLen n => simp [Framer.take] at h; exact h.1.symm
  | tag n => simp [Framer.take] at h
  | kind n t => simp only [Framer.take] at h; split at h <;> simp at h
  | body n t k got m => simp only [Framer.take] at h; split at h <;> simp at h
  | crcHigh n t k got => simp [Framer.take] at h
  | crcLow n t k got hi => simp [Framer.take] at h; exact h.1.symm

theorem framed_hunt {s : State} (h : s.hli.framer = .hunt) : s.framed .hunt = s := by rw [← h, framed_self]

/-- The bytes of a rejected record hand on that one record, on the state as it stood. -/
theorem takeHostBytes_rejected {s : State} (h : s.hears) (hf : s.hli.framer = .hunt) {raw : List Byte}
    (hr : rejectedBytes raw = true) : ∃ r, (runFramer .hunt raw).2 = [r] ∧ takeHostBytes raw s = handOn r s := by
  unfold rejectedBytes at hr
  split at hr
  · rename_i f g r hinit hraw
    refine ⟨r, by rw [hraw], ?_⟩
    have hne : raw ≠ [] := by rintro rfl; simp [runFramer] at hraw
    obtain ⟨init, b, rfl⟩ := List.eq_nil_or_concat raw |>.resolve_left hne
    rw [List.concat_eq_append, List.dropLast_concat] at hinit
    rw [List.concat_eq_append, runFramer_append, hinit] at hraw
    have hb : f.take b = (g, some r) := by
      simp only [runFramer, Prod.mk.injEq, List.nil_append, List.append_nil] at hraw
      exact Prod.ext hraw.1 (by simpa using hraw.2)
    obtain rfl := take_hands_hunt hb
    have before := takeHostBytes_partial h (f := .hunt) (bs := init) (by rw [hinit])
    rw [framed_hunt hf, hinit] at before
    rw [List.concat_eq_append, takeHostBytes, List.foldl_append]
    simp only [takeHostBytes] at before
    rw [before, List.foldl_cons, List.foldl_nil, takeHostByte_hands h hb, framed_hunt hf]
  · cases hr

/-! ## Admission and rejection (R159 to R161) -/

/-- An immediate reply, through the slot when it is free, or lost and counted (R161). -/
theorem immediate_eq (tag kind : Byte) (code : ReplyCode) (s : State) :
    (s.hli.immediateUsed = false → immediate tag kind code s = s.setHli { s.hli with
      immediateUsed := true
      ready := s.hli.ready ++ [{ tag := tag, kind := kind, body := [code.byte], origin := .immediate }] }) ∧
    (s.hli.immediateUsed = true → immediate tag kind code s = s.setAu { s.au with
      replyLost := true, replyLostCount := BitVec.ofNat 8 (min 255 (s.au.replyLostCount.toNat + 1)) }) :=
  ⟨fun h => by simp [immediate, h, enqueue], fun h => by rw [immediate, if_pos h]; rfl⟩

theorem admitRequest_refuses {s : State} {tag : Byte} {code : ReplyCode} (k : ReqKind) (body : List Byte)
    (h : (∃ o ∈ s.hli.outstanding, o.tag = tag) ∧ code = .tagInUse ∨
      (∀ o ∈ s.hli.outstanding, o.tag ≠ tag) ∧ 4 ≤ s.hli.outstanding.length ∧ code = .tableFull) :
    admitRequest tag k body s = immediate tag (k.byte + 0x80#8) code s := by
  unfold admitRequest
  rcases h with ⟨⟨o, ho, rfl⟩, rfl⟩ | ⟨hnew, hfull, rfl⟩
  · have used : s.hli.tagInUse o.tag = true := by simpa [Hli.tagInUse] using ⟨o, ho, rfl⟩
    rw [if_pos used]
    rfl
  · have unused : s.hli.tagInUse tag = false := by simpa [Hli.tagInUse] using hnew
    have full : Config.outstandingMax ≤ s.hli.outstanding.length := hfull
    rw [unused, if_neg Bool.false_ne_true, if_pos full]
    rfl

/-- Settles O9: admission refuses with an immediate reply, and the transmitter chooses. -/
theorem admissionRefuses : Obligations.AdmissionRefuses := by
  intro s k tag body code hlisten htag hb hcase
  have e : exec (k.command tag body) s = .next (startTx (immediate tag (k.byte + 0x80#8) code s)) := by
    rw [exec_command, hostRecord_listens hlisten k htag hb, admitRequest_refuses k body hcase]
  obtain ⟨free, used⟩ := immediate_eq tag (k.byte + 0x80#8) code s
  exact ⟨fun hi => by rw [e, free hi], fun hi => by rw [e, used hi]⟩

/-- The first check of R159 that a record fails decides the code. -/
theorem judgeRecord_rejects {s : State} {r : Handed} {tag : Byte} {code : ReplyCode}
    (h : r = .badLen tag ∧ code = .badLength ∨
      (∃ kind body, r = .whole tag kind body false ∧ code = .check) ∨
      (∃ kind body, r = .whole tag kind body true ∧ ReqKind.ofByte kind = none ∧ code = .badKind) ∨
      ∃ kind body, r = .whole tag kind body true ∧ ReqKind.ofByte kind ≠ none ∧ tag = 0#8 ∧ code = .badValue) :
    judgeRecord r s = immediate tag 0xFF#8 code s := by
  rcases h with ⟨rfl, rfl⟩ | ⟨kind, body, rfl, rfl⟩ | ⟨kind, body, rfl, hk, rfl⟩ | ⟨kind, body, rfl, hk, rfl, rfl⟩
  · rfl
  · rfl
  · simp [judgeRecord, rejectionOf, hk, rejectionKind]
  · obtain ⟨k, hk⟩ := Option.ne_none_iff_exists'.mp hk
    simp [judgeRecord, rejectionOf, hk, rejectionKind]

/-- Settles O10: the bytes hand on one record, which its first failed check answers. -/
theorem rejectionAnswers : Obligations.RejectionAnswers := by
  intro s raw r tag code hlisten hraw hone hcase
  obtain ⟨hreset, hlow, hf, hpending⟩ := (listens_iff s).1 hlisten
  obtain ⟨r', hr', htaken⟩ := takeHostBytes_rejected ⟨hreset, hlow⟩ hf hraw
  obtain rfl : r' = r := by simpa [hone, eq_comm] using hr'
  have e : exec (.rejection raw) s = .next (startTx (immediate tag 0xFF#8 code s)) := by
    simp only [exec, execRejection, htaken, handOn, hpending, judgeRecord_rejects hcase]
    rfl
  obtain ⟨free, used⟩ := immediate_eq tag 0xFF#8 code s
  exact ⟨fun hi => by rw [e, free hi], fun hi => by rw [e, used hi]⟩

/-- Settles O11: what the framer hands on while a restart is pending has no effect. -/
theorem pendingRestartDiscardsRecords : Obligations.PendingRestartDiscardsRecords := by
  intro s hreset hlow hf hpending
  have discarded : ∀ r, handOn r s = s := fun r => if_pos hpending
  refine ⟨fun k tag body hb => ?_, fun raw hraw => ?_⟩
  · rw [exec_command, hostRecord, takeHostBytes_record ⟨hreset, hlow⟩ hf tag k.byte hb, discarded]
  · obtain ⟨r, -, htaken⟩ := takeHostBytes_rejected ⟨hreset, hlow⟩ hf hraw
    simp only [exec, execRejection, htaken, discarded]

/-- Settles O12: the partial record has moved the framer alone, which enters HUNT again. -/
theorem partialRecordDiscarded : Obligations.PartialRecordDiscarded := by
  intro s taken hreset hlow hf hp
  have moved := takeHostBytes_partial ⟨hreset, hlow⟩ (f := .hunt) (bs := taken) (by simpa [partialBytes] using hp)
  rw [framed_hunt hf] at moved
  have discarded : discardPartial (takeHostBytes taken s) = s := by
    rw [moved, discardPartial, if_neg (by simp [State.framed, hreset])]
    exact framed_hunt hf
  have held : holdHrxd s = s.setHli { s.hli with hrxdLow := true } := if_neg (by simp [hreset])
  refine ⟨?_, ?_, ?_, fun k tag body => ?_, ?_⟩
  · simp only [exec, execInterByteGapExpiry, discarded]
  · simp only [exec, execHostStopBitError, discarded, held]
  · simp only [exec, execHostLinkBreak, discarded, held]
  · rw [exec_command, hostRecord, takeHostBytes_deaf (.inr rfl)]
  · have released : releaseHrxd (s.setHli { s.hli with hrxdLow := true }) = s.setHli { s.hli with hrxdLow := false } :=
      if_neg (by simp [hreset])
    have same : s.setHli { s.hli with hrxdLow := false } = s := by rw [← hlow]; rfl
    simp only [exec, execHrxdReturnsHigh, released, same]

/-! ## The transmitter (R163, R172) -/

/-- An idle transmitter with HRDY asserted starts the head of the ready replies. -/
theorem startTx_reply {s : State} (hr : s.hli.inReset = false) (ht : s.hli.tx = none) (hy : s.hli.hrdy = true)
    {r : OutRecord} {rest : List OutRecord} (hq : s.hli.ready = r :: rest) :
    startTx s = s.setHli { s.hli with
      tx := some r, ready := rest
      outstanding := if r.origin = .immediate then s.hli.outstanding else markPhase r.tag .sending s.hli.outstanding } := by
  simp [startTx, hr, ht, hy, hq]

/-- With no reply ready it sends the notice of the selected condition, or nothing. -/
theorem startTx_notice {s : State} (hr : s.hli.inReset = false) (ht : s.hli.tx = none) (hy : s.hli.hrdy = true)
    (hq : s.hli.ready = []) :
    startTx s = match s.selected with
      | none => s
      | some c => (noticeSent c s).setHli { s.hli with tx := some (s.notice c) } := by
  simp only [startTx, hr, ht, hy, hq, noticeSent_hli]
  rfl

theorem condPending_setHli (s : State) (h : Hli) (c : Cond) : (s.setHli h).condPending c = s.condPending c := by
  cases c
  case lineFault l => simp [State.condPending, State.lineFault]
  all_goals rfl

theorem condOpen_setHli (s : State) (h : Hli) (c : Cond) : (s.setHli h).condOpen c = s.condOpen c := by
  cases c <;> simp [State.condOpen]

theorem selected_setHli (s : State) (h : Hli) : (s.setHli h).selected = s.selected := by
  have he : (s.setHli h).eligible = s.eligible :=
    funext fun c => by rw [State.eligible, State.eligible, condPending_setHli, condOpen_setHli]
  rw [State.selected, he]
  rfl

theorem noticeSent_setHli (c : Cond) (s : State) (h : Hli) : noticeSent c (s.setHli h) = (noticeSent c s).setHli h := by
  cases c <;> rfl

theorem selected_eq_some {s : State} {before after : List Cond} {c : Cond} (ho : s.selectionOrder = before ++ c :: after)
    (hc : s.eligible c = true) (hb : ∀ b ∈ before, s.eligible b = false) : s.selected = some c := by
  rw [State.selected, ho, List.find?_append, List.find?_eq_none.mpr fun b h => by simp [hb b h]]
  simp [hc]

theorem selected_eq_none {s : State} (h : ∀ c, s.eligible c = false) : s.selected = none :=
  List.find?_eq_none.mpr fun c _ => by simp [h c]

/-- Settles O13: the transmitter's choice case by case, and a notice by its condition. -/
theorem hrdyLetsTheTransmitterChoose : Obligations.HrdyLetsTheTransmitterChoose := by
  intro s hr u line slot free state said
  refine ⟨rfl, fun ht => ?_, fun ht => ⟨fun r rest hq => ?_, fun hq hnone => ?_, fun before after c hq ho hc hb => ?_⟩⟩
  · exact congrArg Host.Outcome.next (startTx_held (s := u) (.inr (.inl ht)))
  · exact congrArg Host.Outcome.next (startTx_reply (s := u) hr ht rfl hq)
  · have chosen := startTx_notice (s := u) hr ht rfl hq
    rw [selected_setHli, selected_eq_none hnone] at chosen
    exact congrArg Host.Outcome.next chosen
  · have chosen := startTx_notice (s := u) hr ht rfl hq
    rw [selected_setHli, selected_eq_some ho hc hb] at chosen
    refine ⟨_, congrArg Host.Outcome.next chosen, ?_, ?_⟩
    · have hbody : (u.notice c).body = said c := by
        cases c with
        | lineFault l => cases l <;> rfl
        | failover l => cases l <;> rfl
        | bcastDropped l => cases l <;> rfl
        | _ => rfl
      have hnotice : u.notice c = { tag := 0x00#8, kind := 0xF0#8, body := said c, origin := .notice } := by
        rw [← hbody]; rfl
      rw [← hnotice]
      rfl
    · simp only [u, noticeSent_setHli, setHli_setHli]
      rw [← noticeSent_hli c s, setHli_self]

/-- Settles O14: by the origin of the record. -/
theorem recordEndFreesWhatItHeld : Obligations.RecordEndFreesWhatItHeld := by
  intro s r ht
  have ended : exec .recordTransmissionEnd s = .next (if r.origin = .restart then restart s else startTx (s.setHli (freeTx r s.hli))) := by
    simp only [exec, execRecordTransmissionEnd, endRecord, ht]
  refine ⟨fun ho => ?_, fun ho => ?_, fun ho => ?_, fun ho => ?_⟩ <;> rw [ended, ho]
  · simp [freeTx, ho]
  · simp [freeTx, ho]
  · simp [freeTx, ho, removeEntry]
  · rfl

end Sys2Proof.Machine
end

section
/-!
Requests answered with a code or with what they show: a body of a wrong length, the entry check, the two requests of the Attention
Unit, DEVICE_RESTART, DROP_QUERY, MSG_FETCH, POOL_STATUS (R22, R42, R80, R97, R164, R166, R176, R177).
-/

namespace Sys2Proof.Machine

/-! ## An owner's answer (R164) -/

/-- Two states that agree outside the host link. -/
structure SameBlocks (t u : State) : Prop where
  pending : t.pending = u.pending
  timebase : t.timebase = u.timebase
  drops : t.drops = u.drops
  retire : t.retire = u.retire
  store : t.store = u.store
  lcA : t.lcA = u.lcA
  lcB : t.lcB = u.lcB
  au : t.au = u.au

theorem sameBlocks_of_setHli {t u : State} {g h : Hli} (e : t.setHli g = u.setHli h) : SameBlocks t u where
  pending := by simpa using congrArg State.pending e
  timebase := by simpa using congrArg State.timebase e
  drops := by simpa using congrArg State.drops e
  retire := by simpa using congrArg State.retire e
  store := by simpa using congrArg State.store e
  lcA := by simpa using congrArg State.lcA e
  lcB := by simpa using congrArg State.lcB e
  au := by simpa using congrArg State.au e

theorem SameBlocks.drop {t u : State} (h : SameBlocks t u) (i : Slot) : t.drop i = u.drop i := by simp [State.drop, h.drops]

theorem SameBlocks.lc {t u : State} (h : SameBlocks t u) (l : Line) : t.lc l = u.lc l := by
  cases l
  · exact h.lcA
  · exact h.lcB

/-- An owner that posts its reply on a state with the admitted host link has answered, and what it did stands. -/
theorem exec_answers {s u : State} {tag : Byte} {body : List Byte} {k : ReqKind} (h : s.admits tag body = true)
    {code : ReplyCode} {data : List Byte} (hu : u.hli = (admitEntry tag k s).hli)
    (e : ownerAct k tag body (admitEntry tag k s) = post tag k code data u) :
    ∃ t, exec (k.command tag body) s = .next t ∧ Answers s t tag k code data ∧ t.setHli s.hli = u.setHli s.hli := by
  refine ⟨_, exec_command k tag body s, ?_⟩
  rw [hostRecord_admitted h, e]
  exact answers_post hu code data

/-! ## Lengths (Table 68, R164) -/

/-- Settles O16: no owner's pattern for its body fits another length. -/
theorem wrongLengthIsBadLength : Obligations.WrongLengthIsBadLength := by
  intro s k tag body hadm hlen
  suffices e : ∀ u, ownerAct k tag body u = post tag k .badLength [] u by
    obtain ⟨t, hexec, hans, hrest⟩ := exec_posts hadm (e _)
    exact ⟨t, hexec, hans, hrest⟩
  intro u
  have nonempty : body.length ≠ 0 → body.isEmpty = false := by simp
  cases k with
  | deviceInfo => simp only [ownerAct, actDeviceInfo, nonempty hlen]; rfl
  | deviceRestart => simp only [ownerAct, actDeviceRestart, nonempty hlen]; rfl
  | dropScan => simp only [ownerAct, actDropScan, nonempty hlen]; rfl
  | poolStatus => simp only [ownerAct, actPoolStatus, nonempty hlen]; rfl
  | attnPeek => simp only [ownerAct, actAttnPeek, nonempty hlen]; rfl
  | msgSubmit =>
    simp only [ownerAct, actMsgSubmit]
    split
    · simp only [List.length_cons] at hlen
      omega
    · rfl
  | _ =>
    simp only [ownerAct, actCancel, actDropCreate, actDropModify, actDropQuery, actDropMove, actDropRetire,
      actMsgFetch, actMsgRelease, actMsgPurge, actMsgBroadcast, actPoolMarks, actLineConfig, actLineStart, actLineStop,
      actLineReset, actLineStatus, actPollNow, actAttnMask]
    split
    · simp at hlen
    · rfl

/-! ## The entry check (R22) -/

/-- The requests that quote an entry stand or fall first with the entry check. -/
theorem ownerAct_entryCheck {u : State} {k : ReqKind} {slot gen : Byte} {more : List Byte} {code : ReplyCode} (tag : Byte)
    (hk : k = .dropModify ∧ more.length = 15 ∨ k = .dropMove ∧ more.length = 3 ∨ k = .msgSubmit ∧ 1 ≤ more.length ∨
      k = .msgFetch ∧ more.length = 0 ∨ k = .msgRelease ∧ more.length = 1 ∨ k = .msgPurge ∧ more.length = 1 ∨
      k = .pollNow ∧ more.length = 0)
    (h : u.entryCheck slot gen = .error code) : ownerAct k tag (slot :: gen :: more) u = post tag k code [] u := by
  rcases hk with ⟨rfl, hm⟩ | ⟨rfl, hm⟩ | ⟨rfl, hm⟩ | ⟨rfl, hm⟩ | ⟨rfl, hm⟩ | ⟨rfl, hm⟩ | ⟨rfl, hm⟩
  · match more, hm with
    | [_, _, _, _, _, _, _, _, _, _, _, _, _, _, _], _ => simp only [ownerAct, actDropModify, modifyDrop, h]; rfl
  · match more, hm with
    | [_, _, _], _ => simp only [ownerAct, actDropMove, checkMove, h]; rfl
  · match more, hm with
    | _ :: _, _ => simp only [ownerAct, actMsgSubmit, h]; rfl
  · match more, hm with
    | [], _ => simp only [ownerAct, actMsgFetch, h]; rfl
  · match more, hm with
    | [_], _ => simp only [ownerAct, actMsgRelease, h]; rfl
  · match more, hm with
    | [_], _ => simp only [ownerAct, actMsgPurge, h]; rfl
  · match more, hm with
    | [], _ => simp only [ownerAct, actPollNow, h]; rfl

/-- Settles O17: the check's three refusals, in order. -/
theorem entryCheckDecides : Obligations.EntryCheckDecides := by
  intro s k tag slot gen more code hadm hk hcase
  refine exec_posts hadm (ownerAct_entryCheck tag hk ?_)
  rcases hcase with ⟨habove, rfl⟩ | ⟨i, hi, ⟨hv, rfl⟩ | ⟨hv, hg, rfl⟩⟩
  · exact entryCheck_above habove _ gen
  · exact entryCheck_vacant (s := admitEntry tag k s) hi hv gen
  · exact entryCheck_stale (s := admitEntry tag k s) hi hv hg

/-- The entry check of an admitted request that quotes an entry passes. -/
theorem entryCheck_quotes {s : State} {slot gen : Byte} {i : Slot} (h : s.quotes slot gen i) (tag : Byte) (k : ReqKind) :
    (admitEntry tag k s).entryCheck slot gen = .ok i :=
  entryCheck_passes (s := admitEntry tag k s) h.1 h.2.1 h.2.2

/-! ## DEVICE_RESTART (R166) -/

/-- Settles O19: the OK is posted, the restart pends, and the transmitter may start that OK or another reply. -/
theorem deviceRestartPends : Obligations.DeviceRestartPends := by
  intro s tag hadm
  obtain ⟨hlisten, -⟩ := (admits_iff s tag []).1 hadm
  obtain ⟨-, -, -, hpending⟩ := (listens_iff s).1 hlisten
  refine ⟨_, (exec_command .deviceRestart tag [] s).trans (by rw [hostRecord_admitted hadm]), ?_⟩
  have hready : (ownerAct .deviceRestart tag [] (admitEntry tag .deviceRestart s)).hli.ready ≠ [] := by
    simp [ownerAct, actDeviceRestart, enqueue]
  obtain ⟨hrecords, hrequests, hlink⟩ := startTx_ready_link hready
  refine ⟨startTx_ready_setHli hready _, ?_, ?_, ?_, ?_⟩
  · exact (congrArg Hli.restartPending (hlink none [] [])).trans rfl
  · rw [hrecords]
    simp [ownerAct, actDeviceRestart, enqueue, admitEntry, Hli.records]
    rfl
  · rw [hrequests]
    simp [ownerAct, actDeviceRestart, enqueue, admitEntry, Hli.requests, markPhase_requests]
    rfl
  · have same := congrArg (fun h : Hli => { h with restartPending := false }) (hlink s.hli.tx s.hli.ready s.hli.outstanding)
    refine same.trans ?_
    rw [← hpending]
    rfl

/-! ## The Attention Unit (R176, R177) -/

theorem maskGood_iff (w : Half) : maskGood w = true ↔ w.getLsbD 0 = true ∧ w.toNat < 2048 := by simp [maskGood]

theorem actAttnMask_length {body : List Byte} (h : ∀ hi lo, body ≠ [hi, lo]) (tag : Byte) (u : State) :
    actAttnMask tag body u = post tag .attnMask .badLength [] u := by
  unfold actAttnMask
  split
  · exact absurd rfl (h _ _)
  · rfl

/-- Settles O20: the length of the body, then the mask word, decide. -/
theorem attnMaskReplacesTheMasks : Obligations.AttnMaskReplacesTheMasks := by
  intro s tag body hadm
  have refused : (∀ hi lo, body ≠ [hi, lo]) → ∃ t, exec (.attnMask tag body) s = .next t ∧
      Answers s t tag .attnMask .badLength [] ∧ t.setHli s.hli = s := by
    intro hne
    exact exec_posts (k := .attnMask) hadm (actAttnMask_length hne tag _)
  match body with
  | [] => exact refused (by simp)
  | [_] => exact refused (by simp)
  | _ :: _ :: _ :: _ => exact refused (by simp)
  | [hi, lo] =>
    dsimp only
    split
    · rename_i hgood
      refine exec_answers (k := .attnMask) (u := (admitEntry tag .attnMask s).setAu { s.au with masks := halfOf hi lo }) hadm rfl ?_
      simp only [ownerAct, actAttnMask, require_passes ((maskGood_iff _).mpr hgood)]
      rfl
    · rename_i hbad
      refine exec_posts (k := .attnMask) hadm ?_
      simp only [ownerAct, actAttnMask, require_refuses (Bool.eq_false_iff.mpr fun h => hbad ((maskGood_iff _).mp h))]
      rfl

/-- A flag as the weight of its bit. -/
theorem flag_weight (p : Bool) (n : Nat) : (if p = true then n else 0) = n * p.toNat := by cases p <;> simp

theorem peek_admitEntry (tag : Byte) (k : ReqKind) (s : State) : (admitEntry tag k s).peek = s.peek := by
  have pending := condPending_setHli s (admitEntry tag k s).hli
  have same : admitEntry tag k s = s.setHli (admitEntry tag k s).hli := rfl
  have line : ∀ l, (admitEntry tag k s).peekLine l = s.peekLine l := fun l => by
    rw [same, State.peekLine, State.peekLine, pending]; rfl
  have slot : (admitEntry tag k s).peekSlot = s.peekSlot := funext fun i => by
    rw [same, State.peekSlot, State.peekSlot, pending]; rfl
  simp only [State.peek, line, slot]
  rw [same, pending, pending]
  rfl

/-- Settles O21: each flag byte is the sum of the weights of its flags. -/
theorem attnPeekShowsTheUnit : Obligations.AttnPeekShowsTheUnit := by
  intro s tag hadm bit low unit line slot data
  have hunit : bitsByte [s.au.restarted, s.condPending .poolHold, s.au.holdReported, s.condPending .poolLow, s.au.lowReported,
      s.au.replyLost] = unit := by
    simp only [bitsByte, List.foldr, byteOf, unit, bit, flag_weight, State.condPending, show s.low = low from rfl]
    congr 1
    omega
  have hline : ∀ l, s.peekLine l = line l := by
    intro l
    simp only [State.peekLine, bitsByte, List.foldr, byteOf, line, bit, flag_weight, State.condPending, State.lineFault]
    congr 2
    omega
  have hslot : s.peekSlot = slot := by
    funext i
    have ready : (s.drop i).inboxReady =
        ((s.drop i).state.live && decide ((s.drop i).inboxTrigger.toNat ≤ (s.drop i).inbox.length)) := rfl
    simp only [State.peekSlot, bitsByte, List.foldr, byteOf, slot, bit, flag_weight, State.condPending, ready]
    congr 1
    omega
  have hdata : s.peek = data := by
    simp only [State.peek, hunit, hline, hslot]
    rfl
  obtain ⟨t, hexec, hans, hrest⟩ := exec_posts (k := .attnPeek) (code := .ok) (data := s.peek) hadm
    (by simp only [ownerAct, actAttnPeek]; rw [peek_admitEntry]; rfl)
  refine ⟨t, hexec, hrest, hdata ▸ hans, ?_⟩
  simp [data, line]

/-! ## DROP_QUERY, MSG_FETCH and POOL_STATUS (R42, R80, R97) -/

/-- Settles O26: the two bytes of the alert byte and of the pending move are those of the statement. -/
theorem dropQueryShowsTheEntry : Obligations.DropQueryShowsTheEntry := by
  intro s tag slot i hadm hi d
  obtain ⟨t, hexec, hans, hrest⟩ := exec_posts (k := .dropQuery) (code := .ok) (data := d.snapshot) hadm
    (by simp only [ownerAct, actDropQuery, slotCheck, slotOf_eq_some hi]; rfl)
  refine ⟨t, hexec, hrest, ?_⟩
  have halert : alertBytes d.alertByte = [flagByte d.alertByte.isSome, d.alertByte.getD 0x00#8] := by
    cases d.alertByte <;> rfl
  have hmove : moveBytes d.pendingMove =
      [optLineByte (d.pendingMove.map PendingMove.line), (d.pendingMove.map PendingMove.address).getD 0x00#8] := by
    cases d.pendingMove <;> rfl
  rw [Drop.snapshot, halert, hmove] at hans
  exact hans

/-- Settles O36: by the contents of the inbox. -/
theorem msgFetchReturnsTheHead : Obligations.MsgFetchReturnsTheHead := by
  intro s tag slot gen i hadm hq
  have entry := entryCheck_quotes hq tag .msgFetch
  cases hi : (s.drop i).inbox with
  | nil =>
    obtain ⟨t, hexec, hans, hrest⟩ := exec_posts (k := .msgFetch) (code := .inboxEmpty) (data := []) hadm
      (by simp only [ownerAct, actMsgFetch, entry, bind, Except.bind, admitEntry_drop, hi]; rfl)
    exact ⟨t, hexec, fun _ => ⟨hans, hrest⟩, fun _ _ h => (nomatch h)⟩
  | cons m rest =>
    obtain ⟨t, hexec, hans, hrest⟩ := exec_answers (k := .msgFetch) (code := .ok) (data := m.fetchBytes)
      (u := (admitEntry tag .msgFetch s).setDrop i { s.drop i with inbox := { m with fetched := true } :: rest }) hadm rfl
      (by
        simp only [ownerAct, actMsgFetch, entry, bind, Except.bind, State.modDrop, admitEntry_drop, hi, List.head?_cons,
          requireSome, markFetched]
        rfl)
    refine ⟨t, hexec, fun h => (nomatch h), fun m' rest' h => ?_⟩
    obtain ⟨rfl, rfl⟩ := List.cons.inj h
    exact ⟨hans, hrest⟩

theorem poolSnapshot_admitEntry (tag : Byte) (k : ReqKind) (s : State) : (admitEntry tag k s).poolSnapshot = s.poolSnapshot := rfl

theorem markBytes (w : Half) : [hiByte w, loByte w] = halfBytes w.toNat := by simp [halfBytes]

/-- Settles O41: the counts of cells are the lengths of the joined chains. -/
theorem poolStatusShowsTheStore : Obligations.PoolStatusShowsTheStore := by
  intro s tag hadm two total
  obtain ⟨t, hexec, hans, hrest⟩ := exec_posts (k := .poolStatus) (code := .ok) (data := s.poolSnapshot) hadm rfl
  refine ⟨t, hexec, hrest, ?_⟩
  have outbound : s.outboundCells = total (fun d => (d.outbox.flatMap OutMsg.chain).length) := by
    simp [State.outboundCells, sumSlots, total, Drop.outboxCells, chainNos, allSlots, List.length_flatMap]
  have inbox : s.inboxCells = total (fun d => (d.inbox.flatMap InMsg.chain).length) := by
    simp [State.inboxCells, sumSlots, total, chainCells, allSlots, List.length_flatMap]
  have partials : s.partialCells = total (fun d => (d.partialMsg.toList.flatMap InMsg.chain).length) := by
    simp [State.partialCells, sumSlots, total, chainCells, allSlots, List.length_flatMap]
  have marks : ∀ a b c : Half, ∀ tail : List Byte,
      [hiByte a, loByte a, hiByte b, loByte b, hiByte c, loByte c] ++ tail = two a.toNat ++ two b.toNat ++ two c.toNat ++ tail := by
    intro a b c tail
    simp [two]
  rw [State.poolSnapshot, outbound, inbox, partials] at hans
  have := marks s.store.holdMark s.store.resumeMark s.store.lowMark [flagByte s.store.hold, flagByte s.low]
  simp only [List.cons_append, List.nil_append] at this
  rw [this] at hans
  simp only [List.append_assoc] at hans ⊢
  exact hans

end Sys2Proof.Machine
end

section
/-!
Requests decided by a chain of checks: DROP_MOVE, MSG_SUBMIT and MSG_BROADCAST (R44, R96, R101).
-/

namespace Sys2Proof.Machine

/-! ## One check of a chain -/

/-- A check fails with its code where what it forbids holds, and else leaves the outcome to what follows it. -/
theorem require_bind_if {α : Type} {forbidden : Prop} [Decidable forbidden] {ok : Bool} (h : ok = true ↔ ¬ forbidden)
    (code : ReplyCode) (next : Unit → Except ReplyCode α) :
    (require ok code >>= next) = if forbidden then .error code else next () := by
  by_cases hbad : forbidden
  · rw [if_pos hbad, require_refuses (Bool.eq_false_of_not_eq_true fun hok => h.mp hok hbad)]
  · rw [if_neg hbad, require_passes (h.mpr hbad)]

/-- The same of an owner that posts the outcome. -/
theorem reply_require {forbidden : Prop} [Decidable forbidden] {ok : Bool} (h : ok = true ↔ ¬ forbidden) (tag : Byte) (k : ReqKind)
    (s : State) (code : ReplyCode) (next : Unit → Answer) :
    reply tag k s (require ok code >>= next) = if forbidden then post tag k code [] s else reply tag k s (next ()) := by
  rw [require_bind_if h]
  split_ifs <;> rfl

/-- A chain of posted refusals posts the code that the chain of their codes chooses. -/
theorem post_check {forbidden : Prop} [Decidable forbidden] {tag : Byte} {k : ReqKind} {s t : State} {code code' : ReplyCode}
    (rest : code' ≠ .ok → t = post tag k code' [] s) (h : (if forbidden then code else code') ≠ .ok) :
    (if forbidden then post tag k code [] s else t) = post tag k (if forbidden then code else code') [] s := by
  split_ifs with hbad
  · rfl
  · exact rest (by rwa [if_neg hbad] at h)

/-! ## MSG_SUBMIT (R96) -/

/-- The six checks of MSG_SUBMIT that follow the entry check, in their order. -/
theorem actMsgSubmit_entryPassed {u : State} {slot gen : Byte} {i : Slot} (h : u.entryCheck slot gen = .ok i) (tag flags : Byte)
    (payload : List Byte) :
    let d := u.drop i
    actMsgSubmit tag (slot :: gen :: flags :: payload) u =
      if d.state = .retiring then post tag .msgSubmit .wrongState [] u
      else if 1 < flags.toNat then post tag .msgSubmit .badValue [] u
      else if payload.length = 0 ∨ 224 < payload.length then post tag .msgSubmit .badLength [] u
      else if d.outboxLimit.toNat ≤ d.outbox.length then post tag .msgSubmit .queueFull [] u
      else if u.store.hold = true then post tag .msgSubmit .poolHeld [] u
      else if u.store.freeCells.length < (payload.length + 31) / 32 ∨ u.store.freeRecords = [] then
        post tag .msgSubmit .poolExhausted [] u
      else post tag .msgSubmit .ok [d.nextOutId] (submit i (flags.getLsbD 0) payload u) := by
  intro d
  simp only [actMsgSubmit, h]
  change reply tag .msgSubmit u (require _ .wrongState >>= _) = _
  have hlen : (decide (1 ≤ payload.length) && decide (payload.length ≤ Config.messageBytes)) = true ↔
      ¬ (payload.length = 0 ∨ 224 < payload.length) := by
    rw [show Config.messageBytes = 224 from rfl, Bool.and_eq_true, decide_eq_true_iff, decide_eq_true_iff]
    omega
  have hroom : (decide (cellsFor payload.length ≤ u.freeCount) && !u.store.freeRecords.isEmpty) = true ↔
      ¬ (u.store.freeCells.length < (payload.length + 31) / 32 ∨ u.store.freeRecords = []) := by
    rw [Bool.and_eq_true, decide_eq_true_iff, Bool.not_eq_true', List.isEmpty_eq_false_iff, not_or, Nat.not_lt]
    rfl
  rw [reply_require (forbidden := d.state = .retiring) (by simp [d]), reply_require (forbidden := 1 < flags.toNat) (by rw [decide_eq_true_iff]; omega),
    reply_require hlen, reply_require (forbidden := d.outboxLimit.toNat ≤ d.outbox.length) (by simp [d]),
    reply_require (forbidden := u.store.hold = true) (by simp), reply_require hroom]
  rfl

/-- Settles O35: the chain of checks, each answering with its own code. -/
theorem msgSubmitChecksInOrder : Obligations.MsgSubmitChecksInOrder := by
  intro s tag slot gen flags payload i code d body hadm hq hcode hrefused
  refine exec_posts (k := .msgSubmit) hadm ?_
  have act := actMsgSubmit_entryPassed (entryCheck_quotes hq tag .msgSubmit) tag flags payload
  simp only [admitEntry_drop, admitEntry_store] at act
  subst hcode
  refine act.trans (post_check (post_check (post_check (post_check (post_check (post_check ?_))))) hrefused)
  exact fun hok => absurd rfl hok

/-! ## MSG_BROADCAST (R101) -/

theorem targetOf_none_iff (b : Byte) : targetOf b = none ↔ b.toNat = 0 ∨ 4 < b.toNat ∧ b.toNat ≠ 255 := by
  have hb : ∀ n : Nat, n < 256 → (b = BitVec.ofNat 8 n ↔ b.toNat = n) := fun n hn => by
    rw [← BitVec.toNat_inj, BitVec.toNat_ofNat, Nat.mod_eq_of_lt hn]
  simp only [targetOf, hb 1 (by decide), hb 2 (by decide), hb 3 (by decide), hb 4 (by decide), hb 255 (by decide)]
  split_ifs <;> simp <;> omega

theorem lineSetOf_eq (b : Byte) :
    lineSetOf b = if b.toNat = 0 ∨ 3 < b.toNat then none else some (b.getLsbD 0, b.getLsbD 1) := by
  unfold lineSetOf
  split_ifs <;> first | rfl | omega

/-- A line set passes a check unless one of its lines fails it. -/
theorem onSelected_iff (a b : Bool) {passes fails : Line → Bool} (h : ∀ l, passes l = !fails l) :
    onSelected a b passes = true ↔ ¬ (a && fails .a || b && fails .b) = true := by
  cases a <;> cases b <;> simp [onSelected, h]

/-- The checks of MSG_BROADCAST after that of the length, in their order. -/
theorem actMsgBroadcast_checks (tag set target : Byte) (payload : List Byte) (u : State) :
    let on := fun l : Line => if l = .a then set.getLsbD 0 else set.getLsbD 1
    let shut := fun l : Line => on l && ((u.lc l).state == .disabled || (u.lc l).state == .fault)
    let full := fun l : Line => on l && decide (4 ≤ (u.bcastQueue l).length)
    actMsgBroadcast tag (set :: target :: payload) u =
      if set.toNat = 0 ∨ 3 < set.toNat ∨ target.toNat = 0 ∨ 4 < target.toNat ∧ target.toNat ≠ 255 then
        post tag .msgBroadcast .badValue [] u
      else if payload.length = 0 ∨ 32 < payload.length then post tag .msgBroadcast .badLength [] u
      else if shut .a || shut .b then post tag .msgBroadcast .lineUnavailable [] u
      else if full .a || full .b then post tag .msgBroadcast .queueFull [] u
      else if u.store.hold = true then post tag .msgBroadcast .poolHeld [] u
      else if u.store.freeCells = [] ∨ u.store.freeRecords = [] then post tag .msgBroadcast .poolExhausted [] u
      else post tag .msgBroadcast .ok []
        (queueBroadcast (set.getLsbD 0) (set.getLsbD 1) ((targetOf target).getD .all) payload u) := by
  intro on shut full
  simp only [actMsgBroadcast, lineSetOf_eq]
  by_cases hset : set.toNat = 0 ∨ 3 < set.toNat
  · rw [if_pos hset, if_pos (by omega)]
    rfl
  rw [if_neg hset]
  cases htarget : targetOf target with
  | none =>
    rw [if_pos (by have := (targetOf_none_iff target).mp htarget; omega)]
    rfl
  | some g =>
    have hgood : ¬ (target.toNat = 0 ∨ 4 < target.toNat ∧ target.toNat ≠ 255) := by
      rw [← targetOf_none_iff, htarget]
      exact Option.some_ne_none g
    rw [if_neg (by omega)]
    change reply tag .msgBroadcast u (require _ .badLength >>= _) = _
    have hlen : (decide (1 ≤ payload.length) && decide (payload.length ≤ Config.cellBytes)) = true ↔
        ¬ (payload.length = 0 ∨ 32 < payload.length) := by
      rw [show Config.cellBytes = 32 from rfl, Bool.and_eq_true, decide_eq_true_iff, decide_eq_true_iff]
      omega
    have closed : ∀ st : LineState, st.takesUrgent = !(st == .disabled || st == .fault) := fun st => by cases st <;> decide
    have hshut : onSelected (set.getLsbD 0) (set.getLsbD 1) (fun l => (u.lc l).state.takesUrgent) = true ↔
        ¬ (shut .a || shut .b) = true := onSelected_iff _ _ fun l => closed (u.lc l).state
    have hfull : onSelected (set.getLsbD 0) (set.getLsbD 1)
        (fun l => decide ((u.bcastQueue l).length < Config.broadcastMax)) = true ↔ ¬ (full .a || full .b) = true :=
      onSelected_iff _ _ (fails := fun l => decide (4 ≤ (u.bcastQueue l).length)) fun l => by
        rw [show Config.broadcastMax = 4 from rfl, ← decide_not]
        simp
    rw [reply_require hlen, reply_require hshut, reply_require hfull,
      reply_require (forbidden := u.store.hold = true) (by simp),
      reply_require (forbidden := u.store.freeCells = [] ∨ u.store.freeRecords = []) (by simp)]
    rfl

/-- Settles O40: the chain of checks, each answering with its own code. -/
theorem msgBroadcastChecksInOrder : Obligations.MsgBroadcastChecksInOrder := by
  intro s tag set target payload code on shut full body hadm hcode hrefused
  refine exec_posts (k := .msgBroadcast) hadm ?_
  have act := actMsgBroadcast_checks tag set target payload (admitEntry tag .msgBroadcast s)
  simp only [admitEntry_lc, State.bcastQueue, admitEntry_store] at act
  subst hcode
  refine act.trans (post_check (post_check (post_check (post_check (post_check (post_check ?_))))) hrefused)
  exact fun hok => absurd rfl hok

/-! ## DROP_MOVE (R44) -/

theorem lineOf_eq_none {b : Byte} (h : lineOf b = none) : 1 < b.toNat := by
  by_contra hle
  have : b = 0x00#8 ∨ b = 0x01#8 := by bv_omega
  rcases this with rfl | rfl <;> exact absurd h (by decide)

theorem lineOf_eq_some {b : Byte} {l : Line} (h : lineOf b = some l) : b = lineByte l := by
  unfold lineOf at h
  split_ifs at h with hzero hone
  · obtain rfl := Option.some.inj h
    exact hzero
  · obtain rfl := Option.some.inj h
    exact hone

theorem movable_iff (d : Drop) :
    (d.state != .retiring && d.pendingMove.isNone) = true ↔ ¬ (d.state = .retiring ∨ d.pendingMove ≠ none) := by simp

theorem placeTaken_some_iff (s : State) (l : Line) (addr : Byte) (i : Slot) :
    s.placeTaken l addr (some i) = true ↔ ∃ j, j ≠ i ∧ (s.drop j).holds l addr = true := by
  simp [State.placeTaken, allSlots]

/-- A target line above 1 is refused when the entry may move at all. -/
theorem checkMove_above {u : State} {slot gen line : Byte} {i : Slot} (h : u.entryCheck slot gen = .ok i) (hline : 1 < line.toNat)
    (addr flags : Byte) :
    checkMove slot gen line addr flags u =
      if (u.drop i).state = .retiring ∨ (u.drop i).pendingMove ≠ none then .error .wrongState else .error .badValue := by
  simp only [checkMove, h]
  change (require _ .wrongState >>= _) = _
  rw [require_bind_if (movable_iff _), lineCheck_refuses hline]

/-- The checks of DROP_MOVE for a target line, in their order. -/
theorem checkMove_line {u : State} {slot gen : Byte} {i : Slot} (h : u.entryCheck slot gen = .ok i) (l : Line) (addr flags : Byte) :
    let d := u.drop i
    checkMove slot gen (lineByte l) addr flags u =
      if d.state = .retiring ∨ d.pendingMove ≠ none then .error .wrongState
      else if ¬ (1 ≤ addr.toNat ∧ addr.toNat ≤ 239 ∧ flags.toNat ≤ 3) then .error .badValue
      else if flags.getLsbD 0 = false ∧ l = d.currentLine ∧ addr = d.address then .error .same
      else if (u.lc l).state = .fault then .error .lineUnavailable
      else if ∃ j, j ≠ i ∧ (u.drop j).holds l addr = true then .error .addressTaken
      else .ok { slot := i, line := l, address := addr, setHome := flags.getLsbD 1 } := by
  intro d
  simp only [checkMove, h]
  change (require _ .wrongState >>= _) = _
  have hvalues : (addressGood addr && decide (flags.toNat < 4)) = true ↔
      ¬ ¬ (1 ≤ addr.toNat ∧ addr.toNat ≤ 239 ∧ flags.toNat ≤ 3) := by
    rw [addressGood, Bool.and_eq_true, Bool.and_eq_true, decide_eq_true_iff, decide_eq_true_iff, decide_eq_true_iff]
    omega
  have hsame : (flags.getLsbD 0 || !(l == d.currentLine && addr == d.address)) = true ↔
      ¬ (flags.getLsbD 0 = false ∧ l = d.currentLine ∧ addr = d.address) := by
    cases flags.getLsbD 0 <;> simp [or_iff_not_imp_left]
  have hplace : (!u.placeTaken l addr (some i)) = true ↔ ¬ ∃ j, j ≠ i ∧ (u.drop j).holds l addr = true := by
    rw [← placeTaken_some_iff, Bool.not_eq_true', Bool.not_eq_true]
  rw [require_bind_if (movable_iff d), lineCheck_passes, require_bind_if hvalues, require_bind_if hsame,
    require_bind_if (forbidden := (u.lc l).state = .fault) (by simp), require_bind_if hplace]
  rfl

/-- Settles O28: the chain of checks; a line byte above 1 fails with the other values. -/
theorem dropMoveChecksInOrder : Obligations.DropMoveChecksInOrder := by
  intro s tag slot gen line addr flags i body d valuesGood hadm hq
  have entry := entryCheck_quotes hq tag .dropMove
  refine ⟨startTx (actDropMove tag body (admitEntry tag .dropMove s)),
    (exec_command .dropMove tag body s).trans (congrArg _ (hostRecord_admitted hadm .dropMove)), ?_⟩
  have refused : ∀ code, checkMove slot gen line addr flags (admitEntry tag .dropMove s) = .error code →
      TurnedAway s (startTx (actDropMove tag body (admitEntry tag .dropMove s))) tag .dropMove code := fun code e =>
    turnedAway_of_post (by simp only [body, actDropMove, moveDrop, e])
  rcases Nat.lt_or_ge 1 line.toNat with habove | hline
  · have act := checkMove_above entry habove addr flags
    simp only [admitEntry_drop] at act
    refine ⟨fun hshut => refused _ (act.trans (if_pos hshut)), fun hret hmove => ?_⟩
    refine ⟨fun _ => refused _ (act.trans (if_neg (not_or.mpr ⟨hret, not_not.mpr hmove⟩))), fun l hl hgood => ?_⟩
    exact absurd hgood.1 (Nat.not_le.mpr habove)
  · obtain ⟨l, rfl⟩ : ∃ l, line = lineByte l := by
      cases hl : lineOf line with
      | none => exact absurd hline (Nat.not_le.mpr (lineOf_eq_none hl))
      | some l => exact ⟨l, lineOf_eq_some hl⟩
    have act := checkMove_line entry l addr flags
    simp only [admitEntry_drop, admitEntry_lc] at act
    refine ⟨fun hshut => refused _ (act.trans (if_pos hshut)), fun hret hmove => ?_⟩
    rw [if_neg (not_or.mpr ⟨hret, not_not.mpr hmove⟩)] at act
    refine ⟨fun hbad => refused _ (act.trans (if_pos fun hgood => hbad ⟨hline, hgood⟩)), fun m hm hgood => ?_⟩
    obtain rfl : l = m := by simpa using congrArg lineOf hm
    rw [if_neg (not_not.mpr hgood.2)] at act
    refine ⟨fun hforce hsame haddr => refused _ (act.trans (if_pos ⟨hforce, hsame, haddr⟩)), fun hmoves => ?_⟩
    rw [if_neg hmoves] at act
    refine ⟨fun hfault => refused _ (act.trans (if_pos hfault)), fun hok htaken => ?_⟩
    exact refused _ (act.trans ((if_neg hok).trans (if_pos htaken)))

end Sys2Proof.Machine
end

section
/-!
Requests that change the store or an entry: POOL_MARKS, MSG_BROADCAST, MSG_SUBMIT, MSG_RELEASE, MSG_PURGE and CANCEL (R61, R68, R70,
R81, R98, R99).
-/

namespace Sys2Proof.Machine

/-! ## POOL_MARKS (R81) -/

theorem marksGood_iff (h r l : Half) :
    marksGood h r l = true ↔ h.toNat ≤ 511 ∧ r.toNat ≤ 512 ∧ l.toNat ≤ 512 ∧ h.toNat < r.toNat := by
  simp [marksGood, and_assoc]

/-- Settles O42: the marks decide; the two reported flags follow their levels. -/
theorem poolMarksReplaceAndEvaluate : Obligations.PoolMarksReplaceAndEvaluate := by
  intro s tag hh hl rh rl lh ll hadm h r l hold
  have act := reply_require (forbidden := ¬ marksGood h r l = true) (not_not.symm) tag .poolMarks (admitEntry tag .poolMarks s)
    .badValue (fun _ => .ok ([flagByte (setMarks h r l (admitEntry tag .poolMarks s)).store.hold],
      setMarks h r l (admitEntry tag .poolMarks s)))
  have same : setMarks h r l (admitEntry tag .poolMarks s) = (setMarks h r l s).setHli (admitEntry tag .poolMarks s).hli := rfl
  by_cases hgood : marksGood h r l = true
  · rw [if_neg (not_not.mpr hgood)] at act
    obtain ⟨t, hexec, hans, hrest⟩ := exec_answers (k := .poolMarks) hadm (u := setMarks h r l (admitEntry tag .poolMarks s))
      (by rw [same]; rfl) act
    have blocks := sameBlocks_of_setHli hrest
    obtain ⟨h1, h2, h3, h4⟩ := (marksGood_iff h r l).mp hgood
    refine ⟨t, hexec, fun hbad => by omega, fun _ _ _ _ => ⟨hans, blocks.store, blocks.au, fun j => blocks.drop j, fun m => blocks.lc m,
      blocks.retire⟩⟩
  · rw [if_pos hgood] at act
    obtain ⟨t, hexec, hans, hrest⟩ := exec_posts (k := .poolMarks) hadm act
    exact ⟨t, hexec, fun _ => ⟨hans, hrest⟩, fun h1 h2 h3 h4 => absurd ((marksGood_iff h r l).mpr ⟨h1, h2, h3, h4⟩) hgood⟩

/-! ## MSG_BROADCAST (R70, R100) -/

/-- The broadcast that an accepted MSG_BROADCAST makes of a payload (R70). -/
def State.newBcast (s : State) (a b : Bool) (g : Target) (payload : List Byte) : Bcast where
  recNo := s.nextRecord
  cell := { no := s.store.freeCells.headD 0, data := payload }
  target := g
  onA := a
  onB := b

theorem queueBroadcast_bcasts (a b : Bool) (g : Target) (payload : List Byte) (s : State) :
    (queueBroadcast a b g payload s).store.bcasts = s.store.bcasts ++ [s.newBcast a b g payload] :=
  (queueBroadcast_store a b g payload s).1

theorem bcastQueue_append (s t : State) (m : Bcast) (h : t.store.bcasts = s.store.bcasts ++ [m]) (l : Line) :
    t.bcastQueue l = s.bcastQueue l ++ (if m.on l then [m] else []) := by
  rw [State.bcastQueue, h, List.filter_append, List.filter_singleton, cond_eq_ite]
  rfl

/-- Settles O39: no check fails, and the record, the cell and the queues are those of the new broadcast. -/
theorem msgBroadcastQueuesOnEachLine : Obligations.MsgBroadcastQueuesOnEachLine := by
  intro s tag set target payload g c r cs rs on body hadm hset htarget hmin hmax hlines hhold hcells hrecs m
  have hg : targetOf target = some g := by subst htarget; cases g <;> rfl
  have htargetGood : ¬ (target.toNat = 0 ∨ 4 < target.toNat ∧ target.toNat ≠ 255) := by
    rw [← targetOf_none_iff, hg]
    exact Option.some_ne_none g
  have hopen : ∀ l, (on l && ((s.lc l).state == .disabled || (s.lc l).state == .fault)) = false := fun l => by
    cases hon : on l with
    | false => rfl
    | true => simp [(hlines l hon).1, (hlines l hon).2.1]
  have hroom : ∀ l, (on l && decide (4 ≤ (s.bcastQueue l).length)) = false := fun l => by
    cases hon : on l with
    | false => rfl
    | true => simpa using (hlines l hon).2.2
  have hshut : ¬ ((on .a && ((s.lc .a).state == .disabled || (s.lc .a).state == .fault)) ||
      (on .b && ((s.lc .b).state == .disabled || (s.lc .b).state == .fault))) = true := by rw [hopen, hopen]; simp
  have hfull : ¬ ((on .a && decide (4 ≤ (s.bcastQueue .a).length)) || (on .b && decide (4 ≤ (s.bcastQueue .b).length))) = true := by
    rw [hroom, hroom]; simp
  have hnew : (admitEntry tag .msgBroadcast s).newBcast (set.getLsbD 0) (set.getLsbD 1) g payload = m := by
    simp [State.newBcast, m, State.nextRecord, hcells, hrecs]
  have act := (actMsgBroadcast_checks tag set target payload (admitEntry tag .msgBroadcast s)).trans
    ((if_neg (by omega)).trans ((if_neg (by omega)).trans ((if_neg hshut).trans ((if_neg hfull).trans
      ((if_neg (by simp [hhold])).trans (if_neg (by simp [hcells, hrecs])))))))
  rw [hg] at act
  obtain ⟨t, hexec, hans, hrest⟩ := exec_answers (k := .msgBroadcast) hadm (by simp [queueBroadcast]) act
  have blocks := sameBlocks_of_setHli hrest
  obtain ⟨-, hfc, hfr⟩ := queueBroadcast_store (set.getLsbD 0) (set.getLsbD 1) g payload (admitEntry tag .msgBroadcast s)
  have hbcasts : t.store.bcasts = s.store.bcasts ++ [m] := by
    rw [blocks.store, ← hnew]
    exact queueBroadcast_bcasts _ _ _ _ _
  refine ⟨t, hexec, hans, fun l => ?_, hbcasts, ?_, ?_, fun j => ?_, fun l => ?_, ?_⟩
  · rw [bcastQueue_append s t m hbcasts l]
    cases l <;> rfl
  · rw [blocks.store]
    exact hfc.trans (by simp [hcells])
  · rw [blocks.store]
    exact hfr.trans (by simp [hrecs])
  · rw [blocks.drop]
    simp [queueBroadcast]
  · rw [blocks.lc]
    simp [queueBroadcast]
  · rw [blocks.retire]
    simp [queueBroadcast]

/-! ## MSG_SUBMIT (R68) -/

theorem segments_flatten (fuel : Nat) (bs : List Byte) (h : bs.length ≤ 32 * fuel) : (segments fuel bs).flatten = bs := by
  induction fuel generalizing bs with
  | zero => simp [List.length_eq_zero_iff.mp (by simpa using h), segments]
  | succ fuel ih =>
    cases bs with
    | nil => simp [segments]
    | cons b bs =>
      rw [segments, List.flatten_cons, ih _ (by simp at h ⊢; omega), List.take_append_drop]

theorem segments_bounds (fuel : Nat) (bs : List Byte) : ∀ seg ∈ segments fuel bs, 1 ≤ seg.length ∧ seg.length ≤ 32 := by
  induction fuel generalizing bs with
  | zero => simp [segments]
  | succ fuel ih =>
    cases bs with
    | nil => simp [segments]
    | cons b bs =>
      intro seg hseg
      rcases List.mem_cons.mp hseg with rfl | hrest
      · simp
      · exact ih _ seg hrest

/-- Only the last segment may be shorter than a cell. -/
theorem segments_full (fuel : Nat) (bs : List Byte) : ∀ seg ∈ (segments fuel bs).dropLast, seg.length = 32 := by
  induction fuel generalizing bs with
  | zero => simp [segments]
  | succ fuel ih =>
    cases bs with
    | nil => simp [segments]
    | cons b bs =>
      intro seg hseg
      rw [segments] at hseg
      cases hrest : segments fuel ((b :: bs).drop 32) with
      | nil => rw [hrest] at hseg; simp at hseg
      | cons x xs =>
        rw [hrest, List.dropLast_cons_cons] at hseg
        rcases List.mem_cons.mp hseg with rfl | hmore
        · have hne : (b :: bs).drop 32 ≠ [] := fun h0 => by
            rw [h0] at hrest
            cases fuel <;> simp [segments] at hrest
          have := List.length_pos_of_ne_nil hne
          rw [List.length_drop] at this
          simp only [List.length_take]
          omega
        · exact ih ((b :: bs).drop 32) seg (by rw [hrest]; exact hmore)

theorem cellData_writeCells {free : List Nat} {segs : List (List Byte)} (h : segs.length ≤ free.length) :
    (writeCells free segs).map Cell.data = segs := by
  induction segs generalizing free with
  | nil => simp [writeCells]
  | cons d segs ih =>
    cases free with
    | nil => simp at h
    | cons n free => simpa [writeCells] using ih (by simpa using h)

/-- The urgent queue of the drop's line takes an urgent message's drop in, unless it is shut, full or already holds the drop
(R106, R117). -/
theorem submitEntry_lc (i : Slot) (urgent : Bool) (s : State) (l : Line) :
    (submitEntry i urgent s).lc l =
      if l = (s.drop i).currentLine ∧ urgent = true ∧
          ((s.lc l).state = .running ∨ (s.lc l).state = .stopping ∨ (s.lc l).state = .stopped) ∧
          i ∉ (s.lc l).urgent ∧ (s.lc l).urgent.length < 8
      then { s.lc l with urgent := (s.lc l).urgent ++ [i] } else s.lc l := by
  have takes : ∀ st : LineState, st.takesUrgent = true ↔ st = .running ∨ st = .stopping ∨ st = .stopped := fun st => by
    cases st <;> decide
  unfold submitEntry
  dsimp only
  split
  · rename_i hin
    obtain ⟨hurgent, hopen⟩ := Bool.and_eq_true_iff.mp hin
    rw [modLc_lc]
    split
    · rename_i hl
      subst hl
      by_cases hroom : i ∉ (s.lc (s.drop i).currentLine).urgent ∧ (s.lc (s.drop i).currentLine).urgent.length < 8
      · rw [urgentEnter_appends hroom.1 hroom.2, if_pos ⟨rfl, hurgent, (takes _).mp hopen, hroom⟩]
      · rw [if_neg fun h => hroom ⟨h.2.2.2.1, h.2.2.2.2⟩, LineCtl.urgentEnter, if_pos]
        rw [not_and_or, not_not, Nat.not_lt] at hroom
        exact Bool.or_eq_true_iff.mpr (hroom.imp List.contains_iff_mem.mpr decide_eq_true)
    · rename_i hl
      rw [if_neg fun h => hl h.1]
  · rename_i hout
    rw [if_neg]
    rintro ⟨rfl, hurgent, hopen, -⟩
    exact hout (by rw [hurgent, (takes _).mpr hopen]; rfl)

theorem submitEntry_keeps (i : Slot) (urgent : Bool) (s : State) :
    (submitEntry i urgent s).hli = s.hli ∧ (submitEntry i urgent s).drops = s.drops ∧
      (submitEntry i urgent s).store = s.store ∧ (submitEntry i urgent s).retire = s.retire := by
  unfold submitEntry
  dsimp only
  split
  · exact ⟨by simp, by simp, by simp, by simp⟩
  · exact ⟨rfl, rfl, rfl, rfl⟩

/-- What an accepted MSG_SUBMIT does (R68, R96, R117). -/
theorem submit_facts (i : Slot) (urgent : Bool) (payload : List Byte) (s : State) :
    let m := s.newOutMsg i urgent payload
    let d := s.drop i
    let t := submit i urgent payload s
    t.hli = s.hli ∧
      (∀ j, t.drop j =
        (s.setDrop i { d with outbox := outboxInsert d.headLock m d.outbox, nextOutId := d.nextOutId + 1 }).drop j) ∧
      t.store = (takeAway (cellsFor payload.length) 1 s).store ∧ t.retire = s.retire ∧
      ∀ l, t.lc l = if l = d.currentLine ∧ urgent = true ∧
          ((s.lc l).state = .running ∨ (s.lc l).state = .stopping ∨ (s.lc l).state = .stopped) ∧
          i ∉ (s.lc l).urgent ∧ (s.lc l).urgent.length < 8
        then { s.lc l with urgent := (s.lc l).urgent ++ [i] } else s.lc l := by
  intro m d t
  obtain ⟨hli, hdrops, hstore, hretire⟩ := submitEntry_keeps i urgent (takeAway (cellsFor payload.length) 1 (joinOutbox i m s))
  have hdrop : ∀ j, t.drop j = (joinOutbox i m s).drop j := fun j => by
    rw [State.drop, show t.drops = _ from hdrops, takeAway_drops]
    rfl
  refine ⟨hli.trans (by simp [joinOutbox]), hdrop, hstore.trans ?_, hretire.trans (by simp [joinOutbox]), fun l => ?_⟩
  · rw [takeAway_store, takeAway_store]
    rfl
  · rw [show t.lc l = _ from submitEntry_lc i urgent _ l]
    simp [joinOutbox, d]

/-- Settles O34: no check fails; the chain holds the payload in segments, and only the entry, its line's urgent queue and the
free lists change. -/
theorem msgSubmitQueuesTheMessage : Obligations.MsgSubmitQueuesTheMessage := by
  intro s tag slot gen flags payload i r rest d n hadm hq hret hflags hmin hmax hroom hhold hcells hrecs
  have act := (actMsgSubmit_entryPassed (entryCheck_quotes hq tag .msgSubmit) tag flags payload).trans
    ((if_neg hret).trans ((if_neg (by omega)).trans ((if_neg (by omega)).trans ((if_neg (Nat.not_le.mpr hroom)).trans
      ((if_neg (by simp [hhold])).trans (if_neg (not_or.mpr ⟨Nat.not_lt.mpr hcells, by simp [hrecs]⟩)))))))
  obtain ⟨hli, hdrop, hstore, hretire, hlc⟩ := submit_facts i (flags.getLsbD 0) payload (admitEntry tag .msgSubmit s)
  obtain ⟨t, hexec, hans, hrest⟩ := exec_answers (k := .msgSubmit) hadm hli act
  have blocks := sameBlocks_of_setHli hrest
  have hsegs : (segments Config.chainCells payload).length = n := segments_length _ _ (by simpa [Config.chainCells] using hmax)
  have hdata := cellData_writeCells (free := s.store.freeCells) (segs := segments Config.chainCells payload) (hsegs ▸ hcells)
  let m := s.newOutMsg i (flags.getLsbD 0) payload
  have hcell : ∀ c ∈ m.chain, 1 ≤ c.data.length ∧ c.data.length ≤ 32 := fun c hc =>
    segments_bounds _ payload c.data (hdata ▸ List.mem_map_of_mem hc)
  have hfull : ∀ c ∈ m.chain.dropLast, c.data.length = 32 := fun c hc =>
    segments_full _ payload c.data (by rw [← hdata, ← List.map_dropLast]; exact List.mem_map_of_mem hc)
  refine ⟨t, m, hexec, hans, ?_, rfl, rfl, ?_, ?_, hcell, hfull, ?_, fun j hj => ?_, ?_, ?_, ?_, ?_, fun l => ?_⟩
  · simp [m, State.newOutMsg, State.nextRecord, hrecs]
  · rw [← hsegs]
    exact chainNos_writeCells _ _
  · rw [List.flatMap_def]
    exact (congrArg List.flatten hdata).trans (segments_flatten _ _ (by simpa [Config.chainCells] using hmax))
  · rw [blocks.drop, hdrop, setDrop_drop, if_pos rfl]
    rfl
  · rw [blocks.drop, hdrop, setDrop_drop, if_neg hj]
    rfl
  · rw [blocks.store, hstore]
    rfl
  · rw [blocks.store, hstore]
    exact congrArg (List.drop 1) hrecs
  · rw [blocks.store, hstore]
    rfl
  · rw [blocks.retire, hretire]
    rfl
  · rw [blocks.lc, hlc]
    rfl

end Sys2Proof.Machine
end

section
/-!
MSG_RELEASE, MSG_PURGE and CANCEL (R59, R60, R61, R98, R99).
-/

namespace Sys2Proof.Machine

/-! ## MSG_RELEASE (R98) -/

/-- INBOX_READY evaluated on a slot: its reported flag stands only while the level does. -/
theorem evalInbox_reported (i : Slot) (s : State) :
    ((evalInbox i s).au.slot i).inboxReadyReported = ((s.au.slot i).inboxReadyReported && (s.drop i).inboxReady) := by
  rw [evalInbox, modSlotAttn_au, modSlot_slot_same]

theorem actMsgRelease_head {u : State} {slot gen : Byte} {i : Slot} (h : u.entryCheck slot gen = .ok i) {m : InMsg}
    {rest : List InMsg} (hin : (u.drop i).inbox = m :: rest) (tag id : Byte) :
    actMsgRelease tag [slot, gen, id] u =
      if m.id ≠ some id ∨ m.fetched = false then post tag .msgRelease .notFetched [] u
      else post tag .msgRelease .ok [] (releaseHead i m u) := by
  simp only [actMsgRelease, h, bind, Except.bind, hin, List.head?_cons, requireSome]
  refine reply_require ?_ tag .msgRelease u .notFetched (fun _ => .ok ([], releaseHead i m u))
  rw [not_or, not_not, Bool.and_eq_true, beq_iff_eq, Bool.not_eq_false]
  exact and_comm

/-- Settles O37: the inbox, then its head, decide. -/
theorem msgReleaseFreesTheFetchedHead : Obligations.MsgReleaseFreesTheFetchedHead := by
  intro s tag slot gen id i hadm hq
  have entry := entryCheck_quotes hq tag .msgRelease
  cases hin : (s.drop i).inbox with
  | nil =>
    obtain ⟨t, hexec, hans⟩ := exec_posts (k := .msgRelease) (code := .notFetched) (data := []) hadm
      (by simp only [ownerAct, actMsgRelease, entry, bind, Except.bind, admitEntry_drop, hin]; rfl)
    exact ⟨t, hexec, fun _ => hans, fun _ _ h => (nomatch h)⟩
  | cons m rest =>
    have act := actMsgRelease_head (u := admitEntry tag .msgRelease s) entry hin tag id
    by_cases hbad : m.id ≠ some id ∨ m.fetched = false
    · obtain ⟨t, hexec, hans⟩ := exec_posts (k := .msgRelease) hadm (act.trans (if_pos hbad))
      refine ⟨t, hexec, fun _ => hans, fun m' rest' h hid hfetched => ?_⟩
      obtain ⟨rfl, rfl⟩ := List.cons.inj h
      simp [hid, hfetched] at hbad
    · obtain ⟨t, hexec, hans, hrest⟩ := exec_answers (k := .msgRelease) hadm (by simp [releaseHead]) (act.trans (if_neg hbad))
      have blocks := sameBlocks_of_setHli hrest
      refine ⟨t, hexec, fun h => absurd (h m rest rfl) hbad, fun m' rest' h hid hfetched => ?_⟩
      obtain ⟨rfl, rfl⟩ := List.cons.inj h
      have hdrop : ∀ j, t.drop j = (s.setDrop i { s.drop i with inbox := rest }).drop j := fun j => by
        rw [blocks.drop]
        simp only [releaseHead, evalInbox_drop, freeAll_drop, modDrop_drop, setDrop_drop, admitEntry_drop, hin, List.tail_cons]
      have hstore : t.store = (freeAll (chainNos m.chain) [m.recNo] s).store := by
        rw [blocks.store, releaseHead, evalInbox_store, freeAll_store, freeAll_store]
        rfl
      have hreported : (t.au.slot i).inboxReadyReported = ((s.au.slot i).inboxReadyReported && (t.drop i).inboxReady) := by
        rw [blocks.au, blocks.drop, releaseHead, evalInbox_reported, evalInbox_drop]
        rfl
      refine ⟨hans, by rw [hdrop, setDrop_drop, if_pos rfl], fun j hj => by rw [hdrop, setDrop_drop, if_neg hj], ?_, ?_, ?_, ?_,
        fun l => ?_, ?_, ?_, ?_⟩
      · rw [hstore, freeAll_store]
        rfl
      · rw [hstore, freeAll_store]
      · rw [hstore, freeAll_store]
      · rw [hstore, freeAll_store, chainNos, List.length_map]
      · rw [blocks.lc]
        simp [releaseHead]
      · rw [blocks.retire]
        simp [releaseHead]
      · rw [hreported, Bool.and_eq_true]
        exact And.left
      · intro hlow
        rw [hreported, hlow, Bool.and_false]

/-! ## MSG_PURGE (R99) -/

theorem purged_eq (inbound outbound : Prop) [Decidable inbound] [Decidable outbound] (d : Drop) :
    d.purged inbound outbound = { d with
      inbox := if inbound then [] else d.inbox
      partialMsg := if inbound then none else d.partialMsg
      outbox := if outbound then [] else d.outbox
      headLock := if outbound then false else d.headLock
      settleWait := if outbound then d.settleWait || (d.headLock && !d.link.resyncNeeded) else d.settleWait
      link := if outbound then { d.link with segIndex := 0 } else d.link } := by
  by_cases hi : inbound <;> by_cases ho : outbound <;> simp [hi, ho, Drop.purged, Drop.purgeInbox, Drop.purgeOutbox]

theorem onlyIf_decide {α : Type} (p : Prop) [Decidable p] (l : List α) : onlyIf p l = if p then l else [] := by
  simp [onlyIf]

/-- What a purge of the selected queues does (R99). -/
theorem purge_facts (i : Slot) (inbound outbound : Bool) (s : State) :
    let d := s.drop i
    let t := purge i inbound outbound s
    t.hli = s.hli ∧ (∀ j, t.drop j = (s.setDrop i (d.purged inbound outbound)).drop j) ∧
      t.store = (freeAll (onlyIf inbound d.inboundCells ++ onlyIf outbound d.outboxCells)
        (onlyIf inbound d.inboundRecs ++ onlyIf outbound d.outboxRecs) s).store ∧
      t.retire = s.retire ∧ (∀ l, t.lc l = s.lc l) ∧
      ((t.au.slot i).outboxLow = true ↔
        (s.au.slot i).outboxLow = true ∨ outbound = true ∧ d.outboxTrigger.toNat < d.outbox.length) := by
  intro d t
  let freed := freeAll (onlyIf inbound d.inboundCells ++ onlyIf outbound d.outboxCells)
        (onlyIf inbound d.inboundRecs ++ onlyIf outbound d.outboxRecs) (s.setDrop i (d.purged inbound outbound))
  let evaluated := if inbound then evalInbox i freed else freed
  have hlow : (evaluated.au.slot i).outboxLow = (s.au.slot i).outboxLow := by
    cases inbound
    · rfl
    · rw [show evaluated = evalInbox i freed from rfl, evalInbox, modSlotAttn_au, modSlot_slot_same]
      rfl
  have he : evaluated.hli = s.hli ∧ (∀ j, evaluated.drop j = (s.setDrop i (d.purged inbound outbound)).drop j) ∧
      evaluated.store = freed.store ∧ evaluated.retire = s.retire ∧ ∀ l, evaluated.lc l = s.lc l := by
    cases inbound <;> exact ⟨rfl, fun _ => rfl, rfl, rfl, fun l => by cases l <;> rfl⟩
  obtain ⟨hli, hdrop, hstore, hretire, hlc⟩ := he
  have ht : t = if outbound && decide (d.outboxTrigger.toNat < d.outbox.length) then raiseOutboxLow i evaluated else evaluated := rfl
  rw [ht]
  split
  · rename_i hraised
    refine ⟨hli, hdrop, hstore, hretire, fun l => (by simpa using hlc l), ?_⟩
    rw [raiseOutboxLow, modSlotAttn_au, modSlot_slot_same]
    simp only [Bool.and_eq_true, decide_eq_true_iff] at hraised
    simp [hraised]
  · rename_i hquiet
    refine ⟨hli, hdrop, hstore, hretire, hlc, ?_⟩
    rw [hlow]
    simp only [Bool.and_eq_true, decide_eq_true_iff] at hquiet
    simp [hquiet]

theorem purgeSelector_eq (sel : Byte) :
    let inbound := sel = 0x01#8 ∨ sel = 0x03#8
    let outbound := sel = 0x02#8 ∨ sel = 0x03#8
    purgeSelector sel = if inbound ∨ outbound then some (decide inbound, decide outbound) else none := by
  intro inbound outbound
  unfold purgeSelector
  by_cases h1 : sel = 0x01#8
  · subst h1; rfl
  by_cases h2 : sel = 0x02#8
  · subst h2; rfl
  by_cases h3 : sel = 0x03#8
  · subst h3; rfl
  simp [h1, h2, h3, inbound, outbound]

/-- Settles O38: the selector decides which queues are purged. -/
theorem msgPurgeEmptiesTheSelected : Obligations.MsgPurgeEmptiesTheSelected := by
  intro s tag slot gen sel i hadm hq d inb outb
  have entry := entryCheck_quotes hq tag .msgPurge
  have act : ownerAct .msgPurge tag [slot, gen, sel] (admitEntry tag .msgPurge s) = reply tag .msgPurge (admitEntry tag .msgPurge s)
      (requireSome (if inb ∨ outb then some (decide inb, decide outb) else none) .badValue >>= fun p =>
        .ok ([byteOf (if p.1 then d.inboundCount else 0), byteOf (if p.2 then d.outbox.length else 0)],
          purge i p.1 p.2 (admitEntry tag .msgPurge s))) := by
    simp only [ownerAct, actMsgPurge, entry, bind, Except.bind, purgeSelector_eq]
    rfl
  by_cases hsel : inb ∨ outb
  · rw [if_pos hsel] at act
    obtain ⟨hli, hdrop, hstore, hretire, hlc, hlow⟩ := purge_facts i inb outb (admitEntry tag .msgPurge s)
    obtain ⟨t, hexec, hans, hrest⟩ := exec_answers (k := .msgPurge) hadm hli act
    have blocks := sameBlocks_of_setHli hrest
    refine ⟨t, hexec, fun h => absurd hsel (not_or.mpr h), fun _ => ⟨?_, ?_, fun j hj => ?_, fun l => ?_, ?_, ?_, ?_, ?_, ?_⟩⟩
    · have hin : byteOf (if decide inb = true then d.inboundCount else 0) = if inb then BitVec.ofNat 8 d.inboundCount else 0#8 := by
        by_cases h : inb <;> simp [h, byteOf]
      have hout : byteOf (if decide outb = true then d.outbox.length else 0) =
          if outb then BitVec.ofNat 8 d.outbox.length else 0#8 := by by_cases h : outb <;> simp [h, byteOf]
      rw [← hin, ← hout]
      exact hans
    · rw [blocks.drop, hdrop, setDrop_drop, if_pos rfl]
      exact purged_eq inb outb d
    · rw [blocks.drop, hdrop, setDrop_drop, if_neg hj]
      rfl
    · rw [blocks.lc]
      exact hlc l
    · rw [blocks.retire]
      exact hretire
    · rw [blocks.store, hstore, freeAll_store]
      rfl
    · simp only [blocks.store, hstore, freeAll_store, onlyIf_decide, List.append_assoc]
      rfl
    · simp only [blocks.store, hstore, freeAll_store, onlyIf_decide, List.append_assoc]
      rfl
    · rw [blocks.au]
      refine hlow.trans ?_
      rw [decide_eq_true_iff]
      rfl
  · rw [if_neg hsel] at act
    obtain ⟨t, hexec, hans⟩ := exec_posts (k := .msgPurge) hadm act
    exact ⟨t, hexec, fun _ => hans, fun h => absurd h hsel⟩

/-! ## CANCEL (R59, R60, R61) -/

theorem moveTagIs_iff (d : Drop) (target : Byte) :
    d.moveTagIs target = true ↔ ∃ p, d.pendingMove = some p ∧ p.tag = target := by
  cases h : d.pendingMove <;> simp [Drop.moveTagIs, h]

/-- The one slot that fits is the one found. -/
theorem find_allSlots_unique {p : Slot → Bool} {i : Slot} (hi : p i = true) (h : ∀ j, j ≠ i → p j = false) :
    allSlots.find? p = some i := by
  cases hf : allSlots.find? p with
  | none => exact absurd hi (List.find?_eq_none.mp hf i (List.mem_finRange i))
  | some j =>
    have hj := List.find?_some hf
    by_contra hne
    exact absurd hj (by rw [h j fun e => hne (congrArg some e)]; exact Bool.false_ne_true)

/-- Settles O32: the target tag is looked for in the pending moves and then in the retire operation. -/
theorem cancelWithdrawsWhatWaits : Obligations.CancelWithdrawsWhatWaits := by
  intro s tag target hadm
  let u := admitEntry tag .cancel s
  have hexec : exec (.cancel tag [target]) s = .next (startTx (actCancel tag [target] u)) :=
    (exec_command .cancel tag [target] s).trans (congrArg _ (hostRecord_admitted hadm .cancel))
  refine ⟨_, hexec, fun hzero => turnedAway_of_post (if_pos hzero), fun htarget => ⟨?_, fun hnone => ?_⟩⟩
  · intro i p hp htag hothers
    have hfound : allSlots.find? (fun j => (s.drop j).moveTagIs target) = some i :=
      find_allSlots_unique ((moveTagIs_iff _ _).mpr ⟨p, hp, htag⟩) fun j hj =>
        Bool.eq_false_of_not_eq_true fun h => by
          obtain ⟨q, hq, hqtag⟩ := (moveTagIs_iff _ _).mp h
          exact hothers j hj q hq hqtag
    have act : actCancel tag [target] u = withdrawMove tag target i u := by
      simp only [actCancel, if_neg htarget, u, admitEntry_drop, hfound]
    rw [act]
    have hready : (withdrawMove tag target i u).hli.ready ≠ [] := by simp [withdrawMove, post, enqueue]
    obtain ⟨hrecords, -, -⟩ := startTx_ready_link hready
    refine ⟨?_, (startTx_ready_setHli hready _).trans rfl⟩
    rw [hrecords]
    simp [withdrawMove, post, enqueue, u, admitEntry, Hli.records, replyRecord]
    decide
  · have hnotfound : allSlots.find? (fun j => (s.drop j).moveTagIs target) = none :=
      List.find?_eq_none.mpr fun j _ h => by
        obtain ⟨q, hq, hqtag⟩ := (moveTagIs_iff _ _).mp h
        exact hnone j q hq hqtag
    have act : actCancel tag [target] u = cancelRetire tag target u := by
      simp only [actCancel, if_neg htarget, u, admitEntry_drop, hnotfound]
    refine ⟨fun op hop htag hcancel => ?_, fun hother => turnedAway_of_post (act.trans ?_)⟩
    · rw [hexec, act]
      have hretire : u.retire = some op := hop
      simp only [cancelRetire, hretire, if_pos (And.intro htag hcancel)]
      rfl
    · unfold cancelRetire
      split
      · rename_i op hop
        rw [if_neg]
        rintro ⟨htag, hcancel⟩
        exact (hother op hop).elim (fun h => h htag) (fun h => h hcancel)
      · rfl

end Sys2Proof.Machine
end

section
/-!
DROP_CREATE and DROP_MODIFY: the checks of their values, and the entry they make (R35 to R40).
-/

namespace Sys2Proof.Machine

/-! ## Outcomes that can fail with one code only -/

/-- The outcome is a value, or a failure with this code. -/
def FailsOnlyBy {α : Type} (code : ReplyCode) (x : Except ReplyCode α) : Prop := ∀ c, x = .error c → c = code

theorem failsOnlyBy_ok {α : Type} (code : ReplyCode) (a : α) : FailsOnlyBy code (Except.ok a) := fun _ h => (nomatch h)

theorem failsOnlyBy_bind {α β : Type} {code : ReplyCode} {x : Except ReplyCode α} {f : α → Except ReplyCode β}
    (hx : FailsOnlyBy code x) (hf : ∀ a, FailsOnlyBy code (f a)) : FailsOnlyBy code (x >>= f) := by
  cases x with
  | error c => exact fun c' h => hx c' (congrArg _ (Except.error.inj h))
  | ok a => exact hf a

theorem failsOnlyBy_require (ok : Bool) (code : ReplyCode) : FailsOnlyBy code (require ok code) := by
  cases ok
  · exact fun c h => (Except.error.inj h).symm
  · exact failsOnlyBy_ok code ()

theorem failsOnlyBy_requireSome {α : Type} (v : Option α) (code : ReplyCode) : FailsOnlyBy code (requireSome v code) := by
  cases v with
  | none => exact fun c h => (Except.error.inj h).symm
  | some a => exact failsOnlyBy_ok code a

/-- An outcome that can fail with one code only, and has no value, fails with it. -/
theorem eq_error_of_failsOnlyBy {α : Type} {code : ReplyCode} {x : Except ReplyCode α} (h : FailsOnlyBy code x)
    (hno : ∀ a, x ≠ .ok a) : x = .error code := by
  cases x with
  | error c => exact congrArg _ (h c rfl)
  | ok a => exact absurd rfl (hno a)

/-! ## Bytes of a body (R178) -/

theorem flagOf_some {b : Byte} {f : Bool} (h : flagOf b = some f) : b.toNat ≤ 1 := by
  unfold flagOf at h
  split_ifs at h with h0 h1 <;> simp_all

theorem flagOf_flagByte (f : Bool) : flagOf (flagByte f) = some f := by cases f <;> rfl

theorem alertOf_some {p v : Byte} {a : Option Byte} (h : alertOf p v = some a) : p.toNat ≤ 1 := by
  unfold alertOf at h
  split_ifs at h with h0 h1 <;> simp_all

theorem alertOf_present {a : Option Byte} {v : Byte} (h : ∀ w, a = some w → v = w) : alertOf (flagByte a.isSome) v = some a := by
  cases a with
  | none => rfl
  | some w => rw [h w rfl]; rfl

theorem altOf_some {b : Byte} {a : Option Line} (h : altOf b = some a) :
    b = 0xFF#8 ∧ a = none ∨ ∃ l, b = lineByte l ∧ a = some l := by
  unfold altOf at h
  split at h
  · rename_i hb
    exact .inl ⟨hb, (Option.some.inj h).symm⟩
  · obtain ⟨l, hl, rfl⟩ := Option.map_eq_some_iff.mp h
    exact .inr ⟨l, lineOf_eq_some hl, rfl⟩

theorem altOf_optLineByte (a : Option Line) : altOf (optLineByte a) = some a := by
  cases a with
  | none => rfl
  | some l => cases l <;> rfl

theorem lineByte_toNat_le (l : Line) : (lineByte l).toNat ≤ 1 := by cases l <;> decide

/-! ## The values of a new drop (R36) -/

theorem create_rangesGood_iff (b : DropBody) :
    b.rangesGood = true ↔
      (1 ≤ b.address.toNat ∧ b.address.toNat ≤ 239) ∧ (1 ≤ b.cls.toNat ∧ b.cls.toNat ≤ 4) ∧ b.groups.toNat < 16 ∧
        b.retryLimit.toNat ≤ 7 ∧ 1 ≤ b.replyTimeout.toNat ∧ (1 ≤ b.inboxLimit.toNat ∧ b.inboxLimit.toNat ≤ 16) ∧
        (1 ≤ b.inboxTrigger.toNat ∧ b.inboxTrigger.toNat ≤ b.inboxLimit.toNat) ∧
        (1 ≤ b.outboxLimit.toNat ∧ b.outboxLimit.toNat ≤ 16) ∧ b.outboxTrigger.toNat < b.outboxLimit.toNat ∧
        1 ≤ b.maxInbound.toNat ∧ b.maxInbound.toNat ≤ 224 := by
  simp only [DropBody.rangesGood, addressGood, classGood, groupsGood, retryGood, timeoutGood, limitGood, inTriggerGood,
    outTriggerGood, maxInboundGood, Bool.and_eq_true, decide_eq_true_iff, and_assoc]

/-- The parts of a filled entry come from codes that are defined, with an alternate line that is not the home line. -/
theorem fill_checks {b : DropBody} {gen : Byte} {d : Drop} (h : b.fill gen = .ok d) :
    b.rangesGood = true ∧ b.home.toNat ≤ 1 ∧ (b.alternate.toNat ≤ 1 ∨ b.alternate = 0xFF#8) ∧ b.alternate ≠ b.home ∧
      b.notify.toNat ≤ 1 ∧ b.alertPresence.toNat ≤ 1 := by
  obtain ⟨hranges, h⟩ := require_bind_eq_ok h
  obtain ⟨home, hhome, h⟩ := bind_eq_ok h
  obtain ⟨alt, halt, h⟩ := bind_eq_ok h
  obtain ⟨hother, h⟩ := require_bind_eq_ok h
  obtain ⟨notify, hnotify, h⟩ := bind_eq_ok h
  obtain ⟨alert, halert, -⟩ := bind_eq_ok h
  have hb : b.home = lineByte home := lineOf_eq_some (requireSome_eq_ok hhome)
  refine ⟨hranges, hb ▸ lineByte_toNat_le home, ?_, ?_, flagOf_some (requireSome_eq_ok hnotify), alertOf_some (requireSome_eq_ok halert)⟩
  · rcases altOf_some (requireSome_eq_ok halt) with ⟨hff, -⟩ | ⟨l, hl, -⟩
    · exact .inr hff
    · exact .inl (hl ▸ lineByte_toNat_le l)
  · rw [hb]
    intro heq
    have same := requireSome_eq_ok halt
    rw [heq, show lineByte home = optLineByte (some home) from rfl, altOf_optLineByte] at same
    rw [← Option.some.inj same] at hother
    simp at hother

theorem fill_failsOnlyByBadValue (b : DropBody) (gen : Byte) : FailsOnlyBy .badValue (b.fill gen) :=
  failsOnlyBy_bind (failsOnlyBy_require _ _) fun _ => failsOnlyBy_bind (failsOnlyBy_requireSome _ _) fun _ =>
    failsOnlyBy_bind (failsOnlyBy_requireSome _ _) fun _ => failsOnlyBy_bind (failsOnlyBy_require _ _) fun _ =>
      failsOnlyBy_bind (failsOnlyBy_requireSome _ _) fun _ => failsOnlyBy_bind (failsOnlyBy_requireSome _ _) fun _ =>
        failsOnlyBy_ok _ _

/-- The entry that a body with good values makes (R37). -/
def DropBody.newDrop (b : DropBody) (home : Line) (alt : Option Line) (notify : Bool) (alert : Option Byte) (gen : Byte) : Drop :=
  { Drop.vacant gen with
    state := .joining, address := b.address, homeLine := home, currentLine := home, alternate := alt
    cls := b.cls, groups := b.groups, retryLimit := b.retryLimit, replyTimeout := b.replyTimeout
    inboxLimit := b.inboxLimit, inboxTrigger := b.inboxTrigger, outboxLimit := b.outboxLimit
    outboxTrigger := b.outboxTrigger, maxInbound := b.maxInbound, notify := notify, alertByte := alert, link := .fresh }

theorem fill_good {b : DropBody} {home : Line} {alt : Option Line} {notify : Bool} {alert : Option Byte} (hranges : b.rangesGood = true)
    (hhome : b.home = lineByte home) (halt : b.alternate = optLineByte alt) (hother : alt ≠ some home)
    (hnotify : b.notify = flagByte notify) (hpresence : b.alertPresence = flagByte alert.isSome)
    (hvalue : ∀ v, alert = some v → b.alertValue = v) (gen : Byte) :
    b.fill gen = .ok (b.newDrop home alt notify alert gen) := by
  rw [DropBody.fill, require_passes hranges, hhome, lineCheck_passes, halt, altOf_optLineByte, hnotify, flagOf_flagByte, hpresence,
    alertOf_present hvalue]
  change (require (alt != some home) .badValue >>= _) = _
  rw [require_passes (by simpa using hother)]
  rfl

/-! ## The slot of a new drop (R35) -/

theorem wantedSlot_any : wantedSlot 0xFF#8 = .ok none := rfl

theorem wantedSlot_named {slot : Byte} {i : Slot} (h : slot.toNat = i.val) : wantedSlot slot = .ok (some i) := by
  have hne : slot ≠ 0xFF#8 := by
    rintro rfl
    exact absurd h.symm (Nat.ne_of_lt (Nat.lt_trans i.isLt (by decide)))
  rw [wantedSlot, if_neg hne, slotCheck, slotOf_eq_some h]
  rfl

theorem wantedSlot_failsOnlyByBadValue (slot : Byte) : FailsOnlyBy .badValue (wantedSlot slot) := by
  unfold wantedSlot slotCheck
  split
  · exact failsOnlyBy_ok _ _
  · cases slotOf slot with
    | none => exact fun c h => (Except.error.inj h).symm
    | some i => exact failsOnlyBy_ok _ _

theorem wantedSlot_eq_ok {slot : Byte} {want : Option Slot} (h : wantedSlot slot = .ok want) : slot.toNat < 64 ∨ slot = 0xFF#8 := by
  unfold wantedSlot slotCheck at h
  split at h
  · exact .inr (by assumption)
  · cases hs : slotOf slot with
    | none => rw [hs] at h; exact (nomatch h)
    | some i => exact .inl (slotOf_some hs ▸ i.isLt)

theorem isVacant_iff (s : State) (i : Slot) : s.isVacant i = true ↔ (s.drop i).state = .vacant := by simp [State.isVacant]

/-- The named slot when it is VACANT, or the lowest VACANT one for "any". -/
theorem pickSlot_chosen {s : State} {slot : Byte} {i : Slot} (hv : (s.drop i).state = .vacant)
    (h : slot.toNat = i.val ∨ slot = 0xFF#8 ∧ ∀ j < i, (s.drop j).state ≠ .vacant) :
    ∃ want, wantedSlot slot = .ok want ∧ s.pickSlot want = .ok i := by
  rcases h with hnamed | ⟨rfl, hlowest⟩
  · exact ⟨some i, wantedSlot_named hnamed, if_pos ((isVacant_iff s i).mpr hv)⟩
  · refine ⟨none, wantedSlot_any, ?_⟩
    have hfound : allSlots.find? s.isVacant = some i := by
      refine List.find?_eq_some_iff_getElem.mpr ⟨(isVacant_iff s i).mpr hv, i.val, by simp [allSlots], by simp [allSlots], fun j hj => ?_⟩
      have := hlowest ⟨j, Nat.lt_trans hj i.isLt⟩ hj
      simpa [allSlots, State.isVacant] using this
    rw [State.pickSlot, hfound]
    rfl

theorem pickSlot_noSlot {s : State} {slot : Byte} (hslot : slot.toNat < 64 ∨ slot = 0xFF#8)
    (h : ∀ i : Slot, slot.toNat = i.val ∨ slot = 0xFF#8 → (s.drop i).state ≠ .vacant) :
    ∃ want, wantedSlot slot = .ok want ∧ s.pickSlot want = .error .noSlot := by
  rcases hslot with hnamed | rfl
  · have hv := h ⟨slot.toNat, hnamed⟩ (.inl rfl)
    exact ⟨some ⟨slot.toNat, hnamed⟩, wantedSlot_named rfl, if_neg fun e => hv ((isVacant_iff s _).mp e)⟩
  · refine ⟨none, wantedSlot_any, ?_⟩
    have hnone : allSlots.find? s.isVacant = none :=
      List.find?_eq_none.mpr fun i _ e => h i (.inr rfl) ((isVacant_iff s i).mp e)
    rw [State.pickSlot, hnone]
    rfl

/-! ## DROP_CREATE (R35, R37) -/

theorem createDrop_badValue {slot : Byte} {b : DropBody} (h : ∀ want d, wantedSlot slot = .ok want → b.fill 0 ≠ .ok d) (s : State) :
    createDrop slot b s = .error .badValue := by
  cases hwant : wantedSlot slot with
  | error c => simp only [createDrop, hwant, wantedSlot_failsOnlyByBadValue slot c hwant]; rfl
  | ok want =>
    have hfill := eq_error_of_failsOnlyBy (fill_failsOnlyByBadValue b 0) fun d => h want d hwant
    simp only [createDrop, hwant, hfill]
    rfl

theorem placeTaken_none_iff (s : State) (l : Line) (addr : Byte) :
    s.placeTaken l addr none = true ↔ ∃ j, (s.drop j).holds l addr = true := by
  simp [State.placeTaken, allSlots]

theorem placeDrop_eq (i : Slot) (d : Drop) (s : State) :
    placeDrop i d s = (s.setDrop i d).modLc d.homeLine (fun c => c.ringAppend i d.cls) := by
  rw [placeDrop, joinRing, setDrop_drop, if_pos rfl]

/-- With good values and a slot, the home place decides. -/
theorem createDrop_placed {s : State} {slot : Byte} {b : DropBody} {want : Option Slot} {d : Drop} {i : Slot}
    (hwant : wantedSlot slot = .ok want) (hfill : b.fill 0 = .ok d) (hpick : s.pickSlot want = .ok i) :
    createDrop slot b s = if ∃ j, (s.drop j).holds d.homeLine d.address = true then .error .addressTaken
      else .ok ([slotByte i, nextGeneration (s.drop i).generation],
        placeDrop i { d with generation := nextGeneration (s.drop i).generation } s) := by
  simp only [createDrop, hwant, hfill, hpick, bind, Except.bind]
  refine require_bind_if ?_ .addressTaken _
  rw [← placeTaken_none_iff, Bool.not_eq_true', Bool.not_eq_true]

/-- A generation counts up from 1 to 255 and then from 1 again (R21). -/
theorem nextGeneration_eq (g : Byte) :
    nextGeneration g = if g.toNat = 0 ∨ g.toNat = 255 then 1#8 else BitVec.ofNat 8 (g.toNat + 1) := by
  unfold nextGeneration
  split_ifs <;> bv_omega

/-- Settles O23: the slot byte and the values, then the slot, then the home place decide. -/
theorem dropCreateFillsASlot : Obligations.DropCreateFillsASlot := by
  intro s tag slot b home alt notify alert body issued good hadm
  let u := admitEntry tag .dropCreate s
  have hexec : exec (.dropCreate tag body) s = .next (startTx (reply tag .dropCreate u (createDrop slot b u))) :=
    (exec_command .dropCreate tag body s).trans (congrArg _ (hostRecord_admitted hadm .dropCreate))
  have refused : ∀ code, createDrop slot b u = .error code →
      TurnedAway s (startTx (reply tag .dropCreate u (createDrop slot b u))) tag .dropCreate code := fun code e =>
    turnedAway_of_post (by rw [e]; rfl)
  refine ⟨fun hbad => ⟨_, hexec, refused _ (createDrop_badValue (fun want d hwant hfill => ?_) u)⟩, fun hgood => ⟨_, hexec, ?_⟩⟩
  · obtain ⟨hranges, hhome, halt, hother, hnotify, hpresence⟩ := fill_checks hfill
    have := (create_rangesGood_iff b).mp hranges
    have := wantedSlot_eq_ok hwant
    grind
  · obtain ⟨hslot, ha1, ha2, hhome, halt, hother, hc1, hc2, hg, hr, ht, hi1, hi2, hit1, hit2, ho1, ho2, hot, hm1, hm2, hnotify,
      hpresence, hvalue⟩ := hgood
    have hranges : b.rangesGood = true := (create_rangesGood_iff b).mpr
      ⟨⟨ha1, ha2⟩, ⟨hc1, hc2⟩, hg, hr, ht, ⟨hi1, hi2⟩, ⟨hit1, hit2⟩, ⟨ho1, ho2⟩, hot, hm1, hm2⟩
    have hfill := fill_good hranges hhome halt hother hnotify hpresence hvalue 0
    refine ⟨fun hnone => ?_, fun i hv hchosen => ?_⟩
    · obtain ⟨want, hwant, hpick⟩ := pickSlot_noSlot (s := u) hslot hnone
      exact refused .noSlot (by simp only [createDrop, hwant, hfill, hpick, bind, Except.bind])
    · obtain ⟨want, hwant, hpick⟩ := pickSlot_chosen (s := u) hv hchosen
      have act := createDrop_placed hwant hfill hpick
      refine ⟨fun htaken => refused .addressTaken (act.trans (if_pos htaken)), fun hfree => ?_⟩
      rw [if_neg (fun ⟨j, hj⟩ => Bool.false_ne_true ((hfree j).symm.trans hj))] at act
      rw [act]
      have hans := answers_post (s := s) (tag := tag) (k := .dropCreate)
        (s' := placeDrop i (b.newDrop home alt notify alert (nextGeneration (s.drop i).generation)) u) (by simp [placeDrop, joinRing, u])
        .ok [slotByte i, nextGeneration (s.drop i).generation]
      rw [show issued (s.drop i).generation = nextGeneration (s.drop i).generation from (nextGeneration_eq _).symm]
      refine ⟨hans.1, hans.2.trans ?_⟩
      rw [placeDrop_eq]
      cases home <;> rfl

/-! ## DROP_MODIFY (R38, R39) -/

theorem modify_rangesGood_iff (b : ModifyBody) :
    b.rangesGood = true ↔
      b.present.toNat < 4096 ∧ (b.has 0 = true → 1 ≤ b.cls.toNat ∧ b.cls.toNat ≤ 4) ∧ (b.has 1 = true → b.groups.toNat < 16) ∧
        (b.has 3 = true → b.retryLimit.toNat ≤ 7) ∧ (b.has 4 = true → 1 ≤ b.replyTimeout.toNat) ∧
        (b.has 5 = true → 1 ≤ b.inboxLimit.toNat ∧ b.inboxLimit.toNat ≤ 16) ∧ (b.has 6 = true → 1 ≤ b.inboxTrigger.toNat) ∧
        (b.has 7 = true → 1 ≤ b.outboxLimit.toNat ∧ b.outboxLimit.toNat ≤ 16) ∧
        (b.has 9 = true → 1 ≤ b.maxInbound.toNat ∧ b.maxInbound.toNat ≤ 224) := by
  have given : ∀ p q : Bool, (!p || q) = true ↔ (p = true → q = true) := by decide
  simp only [ModifyBody.rangesGood, classGood, groupsGood, retryGood, timeoutGood, limitGood, maxInboundGood, Bool.and_eq_true, given,
    decide_eq_true_iff, and_assoc]

theorem relationsGood_iff (d : Drop) :
    d.relationsGood = true ↔ d.alternate ≠ some d.homeLine ∧ d.inboxTrigger.toNat ≤ d.inboxLimit.toNat ∧
      d.outboxTrigger.toNat < d.outboxLimit.toNat ∧ d.inboundCount ≤ d.inboxLimit.toNat ∧ d.outbox.length ≤ d.outboxLimit.toNat := by
  simp [Drop.relationsGood, and_assoc]

/-- A given code that is defined replaces the entry's value. -/
theorem given_requireSome {α : Type} {given : Bool} {v : Option α} {new : α} (h : given = true → v = some new) (old : α) (code : ReplyCode) :
    (if given then requireSome v code else .ok old) = .ok (if given then new else old) := by
  cases given with
  | false => rfl
  | true => rw [h rfl]; rfl

/-- A given code passes only when it is defined. -/
theorem given_requireSome_eq_ok {α : Type} {given : Bool} {v : Option α} {old a : α} {code : ReplyCode}
    (h : (if given then requireSome v code else .ok old) = .ok a) (hg : given = true) : v = some a := by
  rw [hg] at h
  exact requireSome_eq_ok h

theorem apply_checks {b : ModifyBody} {d e : Drop} (h : b.apply d = .ok e) :
    (b.has 2 = true → b.alternate.toNat ≤ 1 ∨ b.alternate = 0xFF#8) ∧ (b.has 10 = true → b.notify.toNat ≤ 1) ∧
      (b.has 11 = true → b.alertPresence.toNat ≤ 1) := by
  rw [apply_eq] at h
  obtain ⟨alt, halt, h⟩ := bind_eq_ok h
  obtain ⟨notify, hnotify, h⟩ := bind_eq_ok h
  obtain ⟨alert, halert, -⟩ := bind_eq_ok h
  refine ⟨fun hg => ?_, fun hg => flagOf_some (given_requireSome_eq_ok hnotify hg),
    fun hg => alertOf_some (given_requireSome_eq_ok halert hg)⟩
  rcases altOf_some (given_requireSome_eq_ok halt hg) with ⟨hff, -⟩ | ⟨l, hl, -⟩
  · exact .inr hff
  · exact .inl (hl ▸ lineByte_toNat_le l)

theorem apply_failsOnlyByBadValue (b : ModifyBody) (d : Drop) : FailsOnlyBy .badValue (b.apply d) := by
  have given {α : Type} (g : Bool) (v : Option α) (old : α) :
      FailsOnlyBy .badValue (if g then requireSome v .badValue else .ok old) := by
    cases g
    · exact failsOnlyBy_ok _ _
    · exact failsOnlyBy_requireSome _ _
  rw [apply_eq]
  exact failsOnlyBy_bind (given _ _ _) fun _ => failsOnlyBy_bind (given _ _ _) fun _ => failsOnlyBy_bind (given _ _ _) fun _ =>
    failsOnlyBy_ok _ _

theorem altOf_byte {b : Byte} (h : b = 0xFF#8 ∨ b = 0x00#8 ∨ b = 0x01#8) :
    altOf b = some (if b = 0x00#8 then some .a else if b = 0x01#8 then some .b else none) := by
  rcases h with rfl | rfl | rfl <;> rfl

theorem byte_flag {b : Byte} (h : b.toNat ≤ 1) : b = 0x00#8 ∨ b = 0x01#8 := by bv_omega

/-- The present fields of a body with defined codes take their new values (R39). -/
theorem apply_given {b : ModifyBody} (halt : b.has 2 = true → b.alternate = 0xFF#8 ∨ b.alternate = 0x00#8 ∨ b.alternate = 0x01#8)
    (hnotify : b.has 10 = true → b.notify.toNat ≤ 1) (halert : b.has 11 = true → b.alertPresence.toNat ≤ 1) (e : Drop) :
    b.apply e = .ok { e with
      cls := if b.has 0 then b.cls else e.cls
      groups := if b.has 1 then b.groups else e.groups
      alternate := if b.has 2 then (if b.alternate = 0x00#8 then some .a else if b.alternate = 0x01#8 then some .b else none)
        else e.alternate
      retryLimit := if b.has 3 then b.retryLimit else e.retryLimit
      replyTimeout := if b.has 4 then b.replyTimeout else e.replyTimeout
      inboxLimit := if b.has 5 then b.inboxLimit else e.inboxLimit
      inboxTrigger := if b.has 6 then b.inboxTrigger else e.inboxTrigger
      outboxLimit := if b.has 7 then b.outboxLimit else e.outboxLimit
      outboxTrigger := if b.has 8 then b.outboxTrigger else e.outboxTrigger
      maxInbound := if b.has 9 then b.maxInbound else e.maxInbound
      notify := if b.has 10 then b.notify = 0x01#8 else e.notify
      alertByte := if b.has 11 then (if b.alertPresence = 0x01#8 then some b.alertValue else none) else e.alertByte } := by
  have flag : b.has 10 = true → flagOf b.notify = some (decide (b.notify = 0x01#8)) := fun hg => by
    rcases byte_flag (hnotify hg) with h | h <;> rw [h] <;> rfl
  have alert : b.has 11 = true → alertOf b.alertPresence b.alertValue =
      some (if b.alertPresence = 0x01#8 then some b.alertValue else none) := fun hg => by
    rcases byte_flag (halert hg) with h | h <;> rw [h] <;> rfl
  rw [apply_eq, given_requireSome fun hg => altOf_byte (halt hg), given_requireSome flag, given_requireSome alert]
  rfl

theorem modifyDrop_entryPassed {s : State} {slot gen : Byte} {i : Slot} (h : s.entryCheck slot gen = .ok i) (b : ModifyBody) :
    modifyDrop slot gen b s =
      if (s.drop i).state = .retiring then .error .wrongState
      else require b.rangesGood .badValue >>= fun _ => b.apply (s.drop i) >>= fun d =>
        require d.relationsGood .badValue >>= fun _ => .ok ([], evalInbox i (s.setDrop i d)) := by
  simp only [modifyDrop, h, bind, Except.bind]
  exact require_bind_if (by simp) .wrongState _

/-- Settles O25: the state of the entry, then the ranges and codes, then the relations on the entry as it will stand. -/
theorem dropModifyReplacesPresentFields : Obligations.DropModifyReplacesPresentFields := by
  intro s tag slot gen ph pl cls grp alt retry tmo inLim inTrig outLim outTrig maxIn ntf ap av i d body e has hadm hq
  let u := admitEntry tag .dropModify s
  let b : ModifyBody :=
    { present := halfOf ph pl, cls := cls, groups := grp, alternate := alt, retryLimit := retry, replyTimeout := tmo, inboxLimit := inLim
      inboxTrigger := inTrig, outboxLimit := outLim, outboxTrigger := outTrig, maxInbound := maxIn, notify := ntf, alertPresence := ap
      alertValue := av }
  have act := modifyDrop_entryPassed (entryCheck_quotes hq tag .dropModify) b
  simp only [admitEntry_drop] at act
  have refused : ∀ code, modifyDrop slot gen b u = .error code →
      ∃ t, exec (.dropModify tag body) s = .next t ∧ TurnedAway s t tag .dropModify code := fun code e =>
    exec_posts (k := .dropModify) hadm (by
      change reply tag .dropModify u (modifyDrop slot gen b u) = _
      rw [e]
      rfl)
  refine ⟨fun hret => refused _ (act.trans (if_pos hret)), fun hret hbad => refused _ (act.trans ((if_neg hret).trans ?_)), ?_⟩
  · refine eq_error_of_failsOnlyBy (failsOnlyBy_bind (failsOnlyBy_require _ _) fun _ => failsOnlyBy_bind (apply_failsOnlyByBadValue b e)
      fun _ => failsOnlyBy_bind (failsOnlyBy_require _ _) fun _ => failsOnlyBy_ok _ _) fun a h => ?_
    obtain ⟨hranges, h⟩ := require_bind_eq_ok h
    obtain ⟨_, happly, -⟩ := bind_eq_ok h
    obtain ⟨hdefined, hcls, hgrp, hretry, htmo, hin, htrig, hout, hmax⟩ := (modify_rangesGood_iff b).mp hranges
    obtain ⟨halt, hntf, hap⟩ := apply_checks happly
    dsimp only [b] at hcls htmo hin htrig hout hmax
    rcases hbad with h | ⟨hg, h⟩ | ⟨hg, h⟩ | ⟨hg, h⟩ | ⟨hg, h⟩ | ⟨hg, h⟩ | ⟨hg, h⟩ | ⟨hg, h⟩ | ⟨hg, h⟩ | ⟨hg, h⟩ | ⟨hg, h⟩ | ⟨hg, h⟩
    · exact absurd hdefined (Nat.not_lt.mpr h)
    · exact absurd (hcls hg) (by omega)
    · exact absurd (hgrp hg) (Nat.not_lt.mpr h)
    · exact absurd (halt hg) (not_or.mpr ⟨Nat.not_le.mpr h.1, h.2⟩)
    · exact absurd (hretry hg) (Nat.not_le.mpr h)
    · exact absurd (htmo hg) (by omega)
    · exact absurd (hin hg) (by omega)
    · exact absurd (htrig hg) (by omega)
    · exact absurd (hout hg) (by omega)
    · exact absurd (hmax hg) (by omega)
    · exact absurd (hntf hg) (Nat.not_le.mpr h)
    · exact absurd (hap hg) (Nat.not_le.mpr h)
  · intro hret hpresent hcls hgrp halt hretry htmo hin htrig hout hmax hntf hap hd
    have hranges : b.rangesGood = true :=
      (modify_rangesGood_iff b).mpr ⟨hpresent, hcls, hgrp, hretry, htmo, hin, htrig, hout, hmax⟩
    have happly : b.apply e = .ok d := by
      rw [hd]
      exact apply_given (b := b) halt hntf hap e
    replace act : modifyDrop slot gen b u =
        require d.relationsGood .badValue >>= fun _ => .ok ([], evalInbox i (u.setDrop i d)) :=
      act.trans ((if_neg hret).trans ((require_passes hranges _ _).trans (by rw [show b.apply (s.drop i) = _ from happly]; rfl)))
    by_cases hrel : d.relationsGood = true
    · replace act := act.trans (require_passes hrel _ _)
      obtain ⟨t, hexec, hans, hrest⟩ := exec_answers (k := .dropModify) (u := evalInbox i (u.setDrop i d)) hadm (by simp [u])
        (show reply tag .dropModify u (modifyDrop slot gen b u) = _ by rw [act]; rfl)
      have blocks := sameBlocks_of_setHli hrest
      have hau : t.au = (evalInbox i (s.setDrop i d)).au := blocks.au
      refine ⟨t, hexec, fun _ => ⟨hans, ?_, fun j hj => ?_, blocks.store, blocks.lcA, blocks.lcB, blocks.retire, ?_, fun j hj => ?_⟩,
        fun hbroken => ?_⟩
      · rw [blocks.drop, evalInbox_drop, setDrop_drop, if_pos rfl]
      · rw [blocks.drop, evalInbox_drop, setDrop_drop, if_neg hj]
        rfl
      · rw [hau, evalInbox_reported, setDrop_drop, if_pos rfl]
        rfl
      · rw [hau, evalInbox, modSlotAttn_au, modSlot_slot_ne hj]
        rfl
      · obtain ⟨h1, h2, h3, h4, h5⟩ := (relationsGood_iff d).mp hrel
        exact absurd hbroken (by simp only [h1, false_or]; omega)
    · obtain ⟨t, hexec, hturned⟩ := refused .badValue (act.trans (require_refuses (Bool.eq_false_of_not_eq_true hrel) _ _))
      exact ⟨t, hexec, fun hkept => absurd ((relationsGood_iff d).mpr hkept) hrel, fun _ => hturned⟩

end Sys2Proof.Machine
end

section
/-!
DROP_MOVE that passes its checks, and DROP_RETIRE (R48 to R51, R54 to R58).
-/

namespace Sys2Proof.Machine

/-! ## DROP_MOVE (R48 to R51) -/

theorem rehome_eq (line : Line) (setHome : Bool) (d : Drop) :
    d.rehome line setHome = { d with
      homeLine := if setHome then line else d.homeLine
      alternate := if setHome ∧ d.alternate = some line then some d.homeLine else d.alternate } := by
  unfold Drop.rehome
  cases setHome <;> simp

/-- What an applied move does to the entry, its two lines and its attention instances (R49, R50). -/
theorem applyMove_facts (i : Slot) (line : Line) (addr : Byte) (setHome : Bool) (s : State) :
    let d := s.drop i
    let t := applyMove i line addr setHome s
    Arrived line addr
        { d with
          missCount := 0
          homeLine := if setHome then line else d.homeLine
          alternate := if setHome ∧ d.alternate = some line then some d.homeLine else d.alternate } (t.drop i) ∧
      SameDropsBut i s t ∧ ChangedLine i d.currentLine line d.cls s t ∧
      t.au.slot i = (s.au.slot i).afterCut d (t.drop i) ∧ SameAttnBut i s t := by
  intro d t
  have facts := relocate_facts i line addr (s.modDrop i (fun d => { d.rehome line setHome with missCount := 0 }))
  rw [show relocate i line addr (s.modDrop i _) = t from rfl] at facts
  obtain ⟨harrived, hothers, ⟨hnew, hold⟩, hau, hattn⟩ := facts
  simp only [modDrop_drop_same, rehome_eq, modDrop_lc, modDrop_au] at harrived hnew hold hau
  refine ⟨harrived, fun j hj => (hothers j hj).trans (modDrop_drop_ne (Ne.symm hj) _ _), ⟨hnew, hold⟩, ?_, ⟨hattn.1, hattn.2⟩⟩
  exact hau.trans (afterCut_of_eq (d := d) _ _ rfl rfl)

theorem cutOff_congr {d d' e : Drop} (h : CutOff d' e) (hp : d.partialMsg = d'.partialMsg) (hi : d.inbox = d'.inbox)
    (hn : d.nextInId = d'.nextInId) (ha : d.alertByte = d'.alertByte) : CutOff d e := h.of_eq hp hi hn ha rfl

/-- Settles O29: the checks pass, and the drop's visit decides between the pending move and the applied one. -/
theorem dropMoveAppliedOrHeld : Obligations.DropMoveAppliedOrHeld := by
  intro s tag slot gen addr flags l i body d home hadm hq hret hmove haddr hflags hmoves hfault hfree
  let u := admitEntry tag .dropMove s
  have hchecked : checkMove slot gen (lineByte l) addr flags u =
      .ok { slot := i, line := l, address := addr, setHome := flags.getLsbD 1 } := by
    refine (checkMove_line (entryCheck_quotes hq tag .dropMove) l addr flags).trans ((if_neg ?_).trans ((if_neg ?_).trans
      ((if_neg ?_).trans ((if_neg hfault).trans (if_neg ?_)))))
    · exact not_or.mpr ⟨hret, not_not.mpr hmove⟩
    · exact not_not.mpr ⟨haddr.1, haddr.2, hflags⟩
    · rintro ⟨hforce, hline, hsame⟩
      rcases hmoves with h | h | h
      · exact Bool.false_ne_true (hforce.symm.trans h)
      · exact h hline
      · exact h hsame
    · rintro ⟨j, hj, htaken⟩
      exact Bool.false_ne_true ((hfree j hj).symm.trans htaken)
  have act : ownerAct .dropMove tag body u =
      if d.link.inFlight then holdMove tag { slot := i, line := l, address := addr, setHome := home } u
      else post tag .dropMove .ok [] (applyMove i l addr home u) := by
    simp only [ownerAct, actDropMove, body, moveDrop, hchecked]
    rfl
  refine ⟨fun hflight => ?_, fun hidle => ?_⟩
  · rw [if_pos hflight] at act
    refine (exec_command .dropMove tag body s).trans (congrArg Host.Outcome.next ?_)
    rw [hostRecord_admitted hadm, act]
    rfl
  · rw [if_neg (by simp [hidle])] at act
    obtain ⟨t, hexec, hans, hrest⟩ := exec_answers (k := .dropMove) hadm (by simp [u]) act
    have blocks := sameBlocks_of_setHli hrest
    obtain ⟨⟨harrived, hcut⟩, hothers, ⟨hnew, hold⟩, hau, hslots, hlines⟩ := applyMove_facts i l addr home u
    rw [← blocks.drop] at harrived hcut hau
    rw [← blocks.au] at hau hslots hlines
    rw [← blocks.lc] at hnew
    refine ⟨t, hexec, hans, fun j hj => (blocks.drop j).trans (hothers j hj), ?_, ?_, ?_, cutOff_congr hcut rfl rfl rfl rfl, hau,
      ⟨hslots, hlines⟩, fun m hm hm' => ?_, hnew, fun hother => ?_⟩
    · rw [blocks.store, applyMove_store]
      rfl
    · rw [blocks.retire, applyMove_retire]
      rfl
    · exact harrived.trans (by congr 1; exact hmove.symm)
    · exact (blocks.lc m).trans ((hold m hm).trans (if_neg hm'))
    · exact (blocks.lc _).trans ((hold _ (Ne.symm hother)).trans (if_pos rfl))

/-! ## DROP_RETIRE (R54 to R58) -/

theorem rangeGood_iff (first count : Byte) :
    rangeGood first count = true ↔ 1 ≤ count.toNat ∧ first.toNat + count.toNat ≤ 64 := by
  simp only [rangeGood, Bool.and_eq_true, decide_eq_true_iff]
  omega

/-- DROP_RETIRE of a good range with no retire operation in progress runs the operation from its first slot on. -/
theorem actDropRetire_runs {first count : Byte} (hcount : 1 ≤ count.toNat) (hend : first.toNat + count.toNat ≤ 64) {u : State}
    (hretire : u.retire = none) (tag : Byte) :
    RetireGoesOn (.start tag first count) u (actDropRetire tag [first, count] u) := by
  have act : actDropRetire tag [first, count] u = runRetire retireFuel (u.setRetire (some (.start tag first count))) := by
    rw [actDropRetire, if_neg (by rw [(rangeGood_iff first count).mpr ⟨hcount, hend⟩]; exact Bool.noConfusion),
      if_neg (by simp [hretire])]
  rw [act]
  exact runRetire_goesOn retireFuel _ u rfl (by decide) (by rw [retireFuel]; omega)

/-- Settles O31: the operation goes on slot by slot, and waits at the first drop in flight. -/
theorem dropRetireWaitsForAVisit : Obligations.DropRetireWaitsForAVisit := by
  intro s tag first count hadm hretire hcount hend op admitted
  have goes := actDropRetire_runs hcount hend (u := admitEntry tag .dropRetire s) hretire tag
  refine ⟨actDropRetire tag [first, count] (admitEntry tag .dropRetire s), ?_, goes, ?_⟩
  · exact (exec_command .dropRetire tag [first, count] s).trans (congrArg Host.Outcome.next (hostRecord_admitted hadm .dropRetire))
  · intro k hfirst hlast hlive hflight hbefore retired begun
    obtain ⟨hop, hk, hvacant, hothers, hclear, hlines, hlc, hcells, hrecs, hbcasts, hrecords⟩ :=
      goes.waits_at k hfirst (by simp only [RetireOp.start]; omega) hlive hflight hbefore
    refine ⟨?_, hk, hvacant, hclear, hothers, hlines, hlc, hcells, hrecs, hbcasts, ?_⟩
    · rw [hop]
      simp [RetireOp.start, op]
    · rw [hrecords]
      simp only [admitEntry, Hli.records]
      rfl

/-- What a retire operation that meets no drop in flight and no pending move has done when it is over, from `u` to `t`. -/
structure RangeRetired (op : RetireOp) (retired : List Slot) (u t : State) : Prop where
  finished : t.retire = none
  vacated : ∀ i ∈ retired, t.drop i = .vacant (u.drop i).generation ∧ t.au.slot i = .clear
  others : ∀ i ∉ retired, t.drop i = u.drop i ∧ t.au.slot i = u.au.slot i
  lines : ∀ l, t.lc l = (retired.filter (fun i => decide ((u.drop i).currentLine = l))).foldl
    (fun c i => ((c.ringRemove i).probeRemove i).urgentRemove i) (u.lc l)
  cells : t.store.freeCells = u.store.freeCells ++ retired.flatMap (fun i => (u.drop i).inboundCells ++ (u.drop i).outboxCells)
  recs : t.store.freeRecords = u.store.freeRecords ++ retired.flatMap (fun i => (u.drop i).inboundRecs ++ (u.drop i).outboxRecs)
  bcasts : t.store.bcasts = u.store.bcasts
  link : t.hli = u.hli.posted (replyOf op.tag 0x95#8 [0x00#8, BitVec.ofNat 8 op.count])

/-- One more drop at the head of a range that is then retired without it. -/
theorem RangeRetired.cons {op : RetireOp} {retired : List Slot} {i : Slot} {u w t : State} (hi : i ∉ retired)
    (hb : BeginsRetiring i u w) (hmove : (u.drop i).pendingMove = none)
    (h : RangeRetired op.passed retired (w.setDrop i (.vacant (u.drop i).generation)) t) : RangeRetired op (i :: retired) u t := by
  obtain ⟨-, hothers, -, hlc, hstore, hclear, hattn, hlink⟩ := hb
  have same : ∀ j, j ≠ i → (w.setDrop i (.vacant (u.drop i).generation)).drop j = u.drop j := fun j hj => by
    rw [setDrop_drop_ne (Ne.symm hj), hothers j hj]
  have ne : ∀ j ∈ retired, j ≠ i := fun j hj e => hi (e ▸ hj)
  have flat : ∀ f : Drop → List Nat, retired.flatMap (fun j => f ((w.setDrop i (.vacant (u.drop i).generation)).drop j)) =
      retired.flatMap (fun j => f (u.drop j)) := fun f => by
    rw [List.flatMap_def, List.flatMap_def]
    exact congrArg _ (List.map_congr_left fun j hj => by rw [same j (ne j hj)])
  refine ⟨h.finished, fun j hj => ?_, fun j hj => ?_, fun l => ?_, ?_, ?_, ?_, ?_⟩
  · rcases List.mem_cons.mp hj with rfl | hj
    · obtain ⟨hdrop, hau⟩ := h.others j hi
      exact ⟨hdrop.trans (by simp), hau.trans hclear⟩
    · obtain ⟨hdrop, hau⟩ := h.vacated j hj
      exact ⟨hdrop.trans (by rw [same j (ne j hj)]), hau⟩
  · obtain ⟨hji, hj⟩ := not_or.mp (fun e => hj (List.mem_cons.mpr e))
    obtain ⟨hdrop, hau⟩ := h.others j hj
    exact ⟨hdrop.trans (same j hji), hau.trans (hattn.1 j hji)⟩
  · have hfilter : retired.filter (fun j => decide (((w.setDrop i (.vacant (u.drop i).generation)).drop j).currentLine = l)) =
        retired.filter (fun j => decide ((u.drop j).currentLine = l)) :=
      List.filter_congr fun j hj => by rw [same j (ne j hj)]
    rw [h.lines l, hfilter, setDrop_lc, hlc l, List.filter_cons]
    by_cases hl : l = (u.drop i).currentLine
    · simp [hl]
    · simp [hl, Ne.symm hl]
  · rw [h.cells, flat (fun d => d.inboundCells ++ d.outboxCells)]
    simp [hstore]
  · rw [h.recs, flat (fun d => d.inboundRecs ++ d.outboxRecs)]
    simp [hstore]
  · rw [h.bcasts]
    simp [hstore]
  · rw [h.link, setDrop_hli, hlink, hmove]
    rfl

/-- A retire operation over a range of VACANT slots and idle drops without pending moves runs to its end. -/
theorem RetireGoesOn.completes {op : RetireOp} {u t : State} (h : RetireGoesOn op u t) (hle : op.completed ≤ op.count)
    (hend : op.next + (op.count - op.completed) ≤ 64)
    (hidle : ∀ i : Slot, op.next ≤ i.val → i.val < op.next + (op.count - op.completed) → (u.drop i).state = .vacant ∨
      (u.drop i).state.live = true ∧ (u.drop i).link.inFlight = false ∧ (u.drop i).pendingMove = none) :
    RangeRetired op (u.liveBetween op.next (op.next + (op.count - op.completed))) u t := by
  induction h with
  | ends op u hd =>
    have hempty : u.liveBetween op.next (op.next + (op.count - op.completed)) = [] := by
      refine List.filter_eq_nil_iff.mpr fun i _ hi => ?_
      simp only [Bool.and_eq_true, decide_eq_true_eq] at hi
      omega
    rw [hempty]
    exact ⟨rfl, by simp, fun _ _ => ⟨rfl, rfl⟩, fun l => by cases l <;> rfl, by simp, by simp, rfl, rfl⟩
  | stands op u hd hst =>
    have hret := hst ⟨op.next, by omega⟩ rfl
    rcases hidle ⟨op.next, by omega⟩ (Nat.le_refl _) (by simp only; omega) with hv | ⟨hl, -⟩
    · exact absurd (hret.symm.trans hv) (by decide)
    · exact absurd hl (by rw [hret]; decide)
  | vacant op u t i hd hn hv _ ih =>
    have hrange : op.passed.next + (op.passed.count - op.passed.completed) = op.next + (op.count - op.completed) := by
      simp only [RetireOp.passed]; omega
    have hrest := ih (by simp only [RetireOp.passed]; omega) (by omega) fun j hj hk =>
      hidle j (by simp only [RetireOp.passed] at hj; omega) (by omega)
    have hsame : u.liveBetween op.next (op.next + (op.count - op.completed)) =
        u.liveBetween op.passed.next (op.passed.next + (op.passed.count - op.passed.completed)) := by
      rw [hrange, hn, liveBetween_head u i _ (by omega)]
      simp [hv, DropState.live, RetireOp.passed, hn]
    rw [hsame]
    exact ⟨hrest.finished, hrest.vacated, hrest.others, hrest.lines, hrest.cells, hrest.recs, hrest.bcasts, hrest.link⟩
  | waits op u w i hd hn hl hi _ =>
    rcases hidle i (Nat.le_of_eq hn) (by omega) with hv | ⟨-, hf, -⟩
    · exact absurd hl (by rw [hv]; decide)
    · exact absurd (hf.symm.trans hi) Bool.false_ne_true
  | idle op u w t i hd hn hl hi hb _ ih =>
    have hrange : op.passed.next + (op.passed.count - op.passed.completed) = op.next + (op.count - op.completed) := by
      simp only [RetireOp.passed]; omega
    have hmove : (u.drop i).pendingMove = none := by
      rcases hidle i (Nat.le_of_eq hn) (by omega) with hv | ⟨-, -, hm⟩
      · exact absurd hl (by rw [hv]; decide)
      · exact hm
    have above : ∀ j : Slot, op.passed.next ≤ j.val → (w.setDrop i (.vacant (u.drop i).generation)).drop j = u.drop j := fun j hj => by
      have hne : j ≠ i := fun e => by
        subst e
        simp only [RetireOp.passed] at hj
        omega
      rw [setDrop_drop_ne (Ne.symm hne), hb.2.1 j hne]
    have hrest := ih (by simp only [RetireOp.passed]; omega) (by omega) fun j hj hk => by
      rw [above j hj]
      exact hidle j (by simp only [RetireOp.passed] at hj; omega) (by omega)
    rw [liveBetween_congr fun j hj _ => above j hj] at hrest
    have hcons : u.liveBetween op.next (op.next + (op.count - op.completed)) =
        i :: u.liveBetween op.passed.next (op.passed.next + (op.passed.count - op.passed.completed)) := by
      rw [hrange, hn, liveBetween_head u i _ (by omega)]
      simp [hl, RetireOp.passed, hn]
    rw [hcons]
    refine hrest.cons (fun hmem => ?_) hb hmove
    have := (mem_liveBetween.mp hmem).1.1
    simp only [RetireOp.passed] at this
    omega

/-- Settles O30: the range and the operation in progress are checked; with no drop in flight the operation is over in the act. -/
theorem dropRetireOfAnIdleRange : Obligations.DropRetireOfAnIdleRange := by
  intro s tag first count hadm inRange good retired
  let u := admitEntry tag .dropRetire s
  have hexec : exec (.dropRetire tag [first, count]) s = .next (startTx (actDropRetire tag [first, count] u)) :=
    (exec_command .dropRetire tag [first, count] s).trans (congrArg _ (hostRecord_admitted hadm .dropRetire))
  refine ⟨_, hexec, fun hbad => turnedAway_of_post ?_, fun hgood hbusy => turnedAway_of_post ?_, fun hgood hfree hidle => ?_⟩
  · exact if_pos (Bool.eq_false_of_not_eq_true fun h => hbad ((rangeGood_iff first count).mp h))
  · rw [actDropRetire, if_neg (by rw [(rangeGood_iff first count).mpr hgood]; exact Bool.noConfusion),
      if_pos (show u.retire.isSome = true from Option.isSome_iff_ne_none.mpr hbusy)]
  · obtain ⟨hcount, hend⟩ := hgood
    have done := (actDropRetire_runs hcount hend (u := u) hfree tag).completes (Nat.zero_le _)
      (by simp only [RetireOp.start]; omega) fun i hi hk => hidle i ⟨hi, by simpa [RetireOp.start] using hk⟩
    have hretired : u.liveBetween (RetireOp.start tag first count).next ((RetireOp.start tag first count).next +
        ((RetireOp.start tag first count).count - (RetireOp.start tag first count).completed)) = retired := rfl
    rw [hretired] at done
    have hposted : actDropRetire tag [first, count] u =
        post tag .dropRetire .ok [count] ((actDropRetire tag [first, count] u).setHli u.hli) := by
      have hlink := done.link
      rw [show BitVec.ofNat 8 (RetireOp.start tag first count).count = count from BitVec.eq_of_toNat_eq (by simp [RetireOp.start])] at hlink
      rw [post_eq, setHli_hli, setHli_setHli]
      exact (congrArg (State.setHli _) hlink)
    obtain ⟨hans, -⟩ := answers_post (s := s) (tag := tag) (k := .dropRetire)
      (s' := (actDropRetire tag [first, count] u).setHli u.hli) rfl .ok [count]
    rw [← hposted] at hans
    have hready : (actDropRetire tag [first, count] u).hli.ready ≠ [] := by
      rw [done.link]
      exact List.append_ne_nil_of_right_ne_nil _ (List.cons_ne_nil _ _)
    refine ⟨hans, ?_, fun i hi => ?_, fun i hi => ?_, fun l => ?_, ?_, ?_, ?_⟩
    · rw [startTx_retire]
      exact done.finished
    · rw [startTx_drop, startTx_ready_au hready]
      exact done.vacated i hi
    · rw [startTx_drop, startTx_ready_au hready]
      exact done.others i hi
    · rw [startTx_lc]
      exact done.lines l
    · rw [startTx_store]
      exact done.cells
    · rw [startTx_store]
      exact done.recs
    · rw [startTx_store]
      exact done.bcasts

end Sys2Proof.Machine
end

section
/-!
What the Attention Unit shows and what a notice does to it (R168 to R174), the collections of a line (R103 to R106), and the
sending of an attempt (R15, R124).
-/

namespace Sys2Proof.Machine

/-! ## A notice, condition by condition (R173, R174) -/

theorem modSlot_slot (a : Attn) (i j : Slot) (f : SlotAttn → SlotAttn) :
    (a.modSlot i f).slot j = if j = i then f (a.slot i) else a.slot j := by
  split
  · rename_i h
    rw [h, modSlot_slot_same]
  · rename_i h
    exact modSlot_slot_ne h a f

theorem modLine_line (a : Attn) (l m : Line) (f : LineAttn → LineAttn) :
    (a.modLine l f).line m = if m = l then f (a.line l) else a.line m := by
  rcases line_cases l m with rfl | rfl <;> simp

/-- The instances of a line after the notice of a condition. -/
def LineAttn.noticed (a : LineAttn) (c : Cond) (l : Line) : LineAttn :=
  { a with
    faultReported := a.faultReported || decide (c = .lineFault l)
    failover := a.failover && decide (c ≠ .failover l)
    moved := if c = .failover l then 0 else a.moved
    stranded := if c = .failover l then 0 else a.stranded
    bcastDropped := a.bcastDropped && decide (c ≠ .bcastDropped l)
    dropped := if c = .bcastDropped l then 0 else a.dropped }

theorem noticed_line_other {c : Cond} {l : Line} (hf : c ≠ .lineFault l) (ho : c ≠ .failover l) (hb : c ≠ .bcastDropped l)
    (a : LineAttn) : a.noticed c l = a := by
  simp [LineAttn.noticed, hf, ho, hb]

theorem noticeSent_line (c : Cond) (s : State) (l : Line) : (noticeSent c s).au.line l = (s.au.line l).noticed c l := by
  cases c with
  | lineFault m | failover m | bcastDropped m =>
    rw [noticeSent, modLineAttn_au, modLine_line]
    by_cases h : l = m
    · subst h
      simp [LineAttn.noticed]
    · rw [if_neg h, noticed_line_other] <;> simp [Ne.symm h]
  | _ =>
    refine Eq.trans ?_ (noticed_line_other (by simp) (by simp) (by simp) _).symm
    cases l <;> rfl

/-- The instances of a slot after the notice of a condition. -/
def SlotAttn.noticed (a : SlotAttn) (c : Cond) (i : Slot) : SlotAttn :=
  { a with
    dropState := a.dropState && decide (c ≠ .dropState i)
    inboxAlert := a.inboxAlert && decide (c ≠ .inboxAlert i)
    outboxLow := a.outboxLow && decide (c ≠ .outboxLow i)
    inboxReadyReported := a.inboxReadyReported || decide (c = .inboxReady i) }

theorem noticed_slot_other {c : Cond} {i : Slot} (hd : c ≠ .dropState i) (ha : c ≠ .inboxAlert i) (ho : c ≠ .outboxLow i)
    (hr : c ≠ .inboxReady i) (a : SlotAttn) : a.noticed c i = a := by
  simp [SlotAttn.noticed, hd, ha, ho, hr]

/-- A change to the instances of one slot is the notice of a condition of that slot, and leaves the others. -/
theorem modSlot_noticed {c : Cond} {j : Slot} (f : SlotAttn → SlotAttn) (hf : ∀ a, f a = a.noticed c j)
    (ho : ∀ i, i ≠ j → ∀ a : SlotAttn, a.noticed c i = a) (a : Attn) (i : Slot) :
    (a.modSlot j f).slot i = (a.slot i).noticed c i := by
  rw [modSlot_slot]
  by_cases h : i = j
  · rw [if_pos h, hf, h]
  · rw [if_neg h, ho i h]

theorem noticeSent_slot (c : Cond) (s : State) (i : Slot) : (noticeSent c s).au.slot i = (s.au.slot i).noticed c i := by
  cases c with
  | dropState j =>
    exact modSlot_noticed (fun a => { a with dropState := false }) (fun a => by simp [SlotAttn.noticed])
      (fun i hi => noticed_slot_other (by simp [Ne.symm hi]) (by simp) (by simp) (by simp)) s.au i
  | inboxAlert j =>
    exact modSlot_noticed (fun a => { a with inboxAlert := false }) (fun a => by simp [SlotAttn.noticed])
      (fun i hi => noticed_slot_other (by simp) (by simp [Ne.symm hi]) (by simp) (by simp)) s.au i
  | outboxLow j =>
    exact modSlot_noticed (fun a => { a with outboxLow := false }) (fun a => by simp [SlotAttn.noticed])
      (fun i hi => noticed_slot_other (by simp) (by simp) (by simp [Ne.symm hi]) (by simp)) s.au i
  | inboxReady j =>
    exact modSlot_noticed (fun a => { a with inboxReadyReported := true }) (fun a => by simp [SlotAttn.noticed])
      (fun i hi => noticed_slot_other (by simp) (by simp) (by simp) (by simp [Ne.symm hi])) s.au i
  | lineFault m | failover m | bcastDropped m =>
    refine Eq.trans ?_ (noticed_slot_other (by simp) (by simp) (by simp) (by simp) _).symm
    exact modLine_slot s.au m _ i
  | _ => exact (noticed_slot_other (by simp) (by simp) (by simp) (by simp) _).symm

/-- The instances of the device after a notice, its masks and the scan pointers. -/
theorem noticeSent_device (c : Cond) (s : State) :
    let a := s.au
    let b := (noticeSent c s).au
    b.restarted = (a.restarted && decide (c ≠ .restarted)) ∧ b.replyLost = (a.replyLost && decide (c ≠ .replyLost)) ∧
      b.replyLostCount = (if c = .replyLost then 0#8 else a.replyLostCount) ∧
      b.holdReported = (a.holdReported || decide (c = .poolHold)) ∧ b.lowReported = (a.lowReported || decide (c = .poolLow)) ∧
      b.ptrDropState = (match c with | .dropState i => i | _ => a.ptrDropState) ∧
      b.ptrInboxAlert = (match c with | .inboxAlert i => i | _ => a.ptrInboxAlert) ∧
      b.ptrInboxReady = (match c with | .inboxReady i => i | _ => a.ptrInboxReady) ∧
      b.ptrOutboxLow = (match c with | .outboxLow i => i | _ => a.ptrOutboxLow) ∧ b.masks = a.masks := by
  cases c with
  | lineFault m | failover m | bcastDropped m => cases m <;> simp [noticeSent, State.modLineAttn, Attn.modLine]
  | _ => simp [noticeSent, Attn.modSlot]

theorem noticeSent_setAu (c : Cond) (s : State) : noticeSent c s = s.setAu (noticeSent c s).au := by
  cases c <;> rfl

/-- After a notice its own condition is not pending, and every other one is as it was. -/
theorem noticeSent_condPending (c d : Cond) (s : State) : (noticeSent c s).condPending d = (s.condPending d && decide (c ≠ d)) := by
  obtain ⟨hrestarted, hlost, -, hhold, hlow, -⟩ := noticeSent_device c s
  have reported : ∀ (level was : Bool) (now : Prop) [Decidable now], (level && !(was || decide now)) = ((level && !was) && decide ¬ now) :=
    fun level was now _ => by cases level <;> cases was <;> simp
  cases d with
  | restarted => exact hrestarted
  | replyLost => exact hlost
  | poolHold => simp only [State.condPending, noticeSent_store, hhold, reported, ne_eq]
  | poolLow =>
    have same : (noticeSent c s).low = s.low := by rw [State.low, State.freeCount, noticeSent_store]; rfl
    simp only [State.condPending, same, hlow, reported, ne_eq]
  | lineFault l =>
    simp only [State.condPending, State.lineFault, noticeSent_lc, noticeSent_line, LineAttn.noticed, reported, ne_eq]
  | failover l => simp only [State.condPending, noticeSent_line, LineAttn.noticed]
  | bcastDropped l => simp only [State.condPending, noticeSent_line, LineAttn.noticed]
  | dropState i => simp only [State.condPending, noticeSent_slot, SlotAttn.noticed]
  | inboxAlert i => simp only [State.condPending, noticeSent_slot, SlotAttn.noticed]
  | outboxLow i => simp only [State.condPending, noticeSent_slot, SlotAttn.noticed]
  | inboxReady i => simp only [State.condPending, noticeSent_drop, noticeSent_slot, SlotAttn.noticed, reported, ne_eq]

/-! ## The order of selection, and ATTN (R171 to R173) -/

/-- The rotating order starts at the slot after the pointer and wraps around. -/
theorem rotated_eq (p : Slot) : rotated p = (List.finRange 64).map (fun n => p + 1 + n) := by
  revert p
  decide

theorem mem_rotated (p i : Slot) : i ∈ rotated p := by
  rcases Nat.lt_or_ge p.val i.val with h | h
  · exact List.mem_append_left _ (List.mem_filter.mpr ⟨List.mem_finRange i, decide_eq_true h⟩)
  · exact List.mem_append_right _ (List.mem_filter.mpr ⟨List.mem_finRange i, decide_eq_true h⟩)

/-- Every condition has its place in the order of selection. -/
theorem mem_selectionOrder (s : State) (c : Cond) : c ∈ s.selectionOrder := by
  simp only [State.selectionOrder, List.mem_append, List.mem_map]
  cases c with
  | dropState i => exact .inl (.inl (.inl (.inr ⟨i, mem_rotated _ i, rfl⟩)))
  | inboxAlert i => exact .inl (.inl (.inr ⟨i, mem_rotated _ i, rfl⟩))
  | inboxReady i => exact .inl (.inr ⟨i, mem_rotated _ i, rfl⟩)
  | outboxLow i => exact .inr ⟨i, mem_rotated _ i, rfl⟩
  | lineFault l | failover l | bcastDropped l => cases l <;> exact .inl (.inl (.inl (.inl (by decide))))
  | _ => exact .inl (.inl (.inl (.inl (by decide))))

theorem attnAsserted_iff {s : State} (h : s.hli.inReset = false) : s.attnAsserted = true ↔ ∃ c, s.eligible c = true := by
  simp only [State.attnAsserted, h, Bool.not_false, Bool.true_and, List.any_eq_true]
  exact ⟨fun ⟨c, _, hc⟩ => ⟨c, hc⟩, fun ⟨c, hc⟩ => ⟨c, mem_selectionOrder s c, hc⟩⟩

/-- Settles O22: a notice condition by condition, the order, the gates, and ATTN. -/
theorem attnShowsEligibility : Obligations.AttnShowsEligibility := by
  refine ⟨fun s c d => ⟨?_, fun hd => ?_⟩, ?_, ?_, ?_, fun s h => attnAsserted_iff h⟩
  · rw [noticeSent_condPending]
    simp
  · rw [noticeSent_condPending]
    simp [Ne.symm hd]
  · intro s c a b
    obtain ⟨-, -, hcount, hhold, hlow, h1, h2, h3, h4, hmasks⟩ := noticeSent_device c s
    refine ⟨h1, h2, h3, h4, hcount, hhold, hlow, fun l => ?_, fun i => ?_, hmasks, noticeSent_setAu c s⟩
    · rw [show b.line l = _ from noticeSent_line c s l]
      exact ⟨rfl, rfl, rfl, rfl⟩
    · rw [show b.slot i = _ from noticeSent_slot c s i]
      rfl
  · intro s turn
    simp only [State.selectionOrder, rotated_eq, List.map_map]
    rfl
  · intro s open_ gate
    exact ⟨Bool.and_true _, fun l => ⟨rfl, rfl, rfl⟩, rfl, rfl, rfl, fun i => ⟨rfl, rfl, rfl, rfl⟩⟩

/-! ## The sending of an attempt (R15, R16, R124) -/

theorem sendPending_visit {s : State} {l : Line} {v : Visit} (hv : (s.lc l).visit = some v) (hp : v.phase = .gap) :
    sendPending l s = s.setLc l { s.lc l with visit := some { v with phase := .send, attempts := v.attempts + 1 } } := by
  simp only [sendPending, hv, if_pos hp]
  rfl

theorem sendPending_bcast {s : State} {l : Line} {f : BcastFrame} (hv : (s.lc l).visit = none) (hf : (s.lc l).bcastFrame = some f) :
    sendPending l s = s.setLc l { s.lc l with bcastFrame := some { f with sending := true } } := by
  have sent : sendPending l s = s.modLc l (fun c => { c with bcastFrame := some { f with sending := true } }) := by
    simp only [sendPending, hv, hf]
  exact sent

theorem quietEvent_awake {s : State} (h : s.hli.inReset = false) (act : State → State) : quietEvent act s = act s :=
  if_neg (by simp [h])

/-- Settles O52: each event acts on the line as it stands. -/
theorem attemptIsSentAfterItsGap : Obligations.AttemptIsSentAfterItsGap := by
  intro s l hreset c sends
  have sent : sends (sendPending l s) := by
    refine ⟨congrArg Host.Outcome.next (quietEvent_awake hreset (gapWaitLimitExpiry l)), fun hheld => ?_⟩
    refine congrArg Host.Outcome.next ((quietEvent_awake hreset (turnaroundGapElapsed l)).trans ?_)
    exact if_neg (by rw [show (s.lc l).gapHeld = false from hheld]; exact Bool.false_ne_true)
  refine ⟨fun v hv hp => ?_, fun f hv hf => ?_, fun hheld => ?_, fun v hv hp => ?_, ?_⟩
  · exact sendPending_visit hv hp ▸ sent
  · exact sendPending_bcast hv hf ▸ sent
  · exact congrArg Host.Outcome.next ((quietEvent_awake hreset (turnaroundGapElapsed l)).trans (if_pos hheld))
  · refine congrArg Host.Outcome.next ((quietEvent_awake hreset (frameSent l)).trans ?_)
    simp only [frameSent, show (s.lc l).visit = some v from hv, if_pos hp]
    rfl
  · exact congrArg Host.Outcome.next (quietEvent_awake hreset _)

/-! ## The collections of a line (R103 to R106) -/

theorem ringPlace_none {ring : List RingEntry} {i : Slot} (h : ∀ e ∈ ring, e.slot ≠ i) : ringPlace ring i = none := by
  simpa [ringPlace, List.findIdx?_eq_none_iff] using h

theorem ringPlace_middle {before after : List RingEntry} {e : RingEntry} {i : Slot} (he : e.slot = i)
    (hb : ∀ x ∈ before, x.slot ≠ i) : ringPlace (before ++ e :: after) i = some before.length := by
  rw [ringPlace, List.findIdx?_append, List.findIdx?_eq_none_iff.mpr (by simpa using hb), List.findIdx?_cons]
  simp [he]

/-- Settles O24: what stands where decides what a removal takes and what the cursor then names. -/
theorem ringAppendAndRemovalFollowTheWalk : Obligations.RingAppendAndRemovalFollowTheWalk := by
  refine ⟨fun c i cls hcursor => ⟨?_, fun hin => ?_, fun hend => ?_, rfl⟩, fun c i => ⟨fun hout => ?_, fun before after e hring he hb => ?_,
    fun hout => ?_, fun before after hlist hb => ?_, fun hout => ?_, fun before after hlist hb => ?_⟩⟩
  · simp only [LineCtl.ringAppend, dueMark]
    congr 3
    rw [Bool.decide_and, beq_eq_decide]
  · exact if_neg (by simp [Nat.ne_of_lt hin])
  · by_cases hwalk : c.phase = .ringWalk
    · simp [LineCtl.ringAppend, hwalk, hend]
    · simp [LineCtl.ringAppend, hwalk, hend]
  · simp only [LineCtl.ringRemove, ringPlace_none hout]
  · simp only [LineCtl.ringRemove, hring, ringPlace_middle he hb, List.eraseIdx_append_of_length_le (Nat.le_refl _), Nat.sub_self,
      List.eraseIdx_cons_zero]
  · rw [LineCtl.probeRemove, List.erase_of_not_mem hout, if_neg fun h => hout (List.mem_of_head? h.1)]
  · have hhead : (before ++ i :: after).head? = some i ↔ before = [] := by
      cases before with
      | nil => simp
      | cons x xs => simpa using fun h : x = i => hb (h ▸ List.mem_cons_self)
    simp only [LineCtl.probeRemove, hlist, List.erase_append_right _ hb, List.erase_cons_head, hhead]
  · exact congrArg (fun q => { c with urgent := q }) (List.erase_of_not_mem hout)
  · simp only [LineCtl.urgentRemove, hlist, List.erase_append_right _ hb, List.erase_cons_head]

end Sys2Proof.Machine
end

section
/-!
LINE_START, LINE_STOP and LINE_RESET (R142, R143, R145).
-/

namespace Sys2Proof.Machine

/-! ## LINE_START (R142) -/

theorem actLineStart_length {body : List Byte} (h : ∀ line, body ≠ [line]) (tag : Byte) (u : State) :
    actLineStart tag body u = post tag .lineStart .badLength [] u := by
  unfold actLineStart
  split
  · exact absurd rfl (h _)
  · rfl

theorem actLineStart_above {line : Byte} (h : 1 < line.toNat) (tag : Byte) (u : State) :
    actLineStart tag [line] u = post tag .lineStart .badValue [] u := by
  simp only [actLineStart, lineCheck_refuses h, reply]

theorem actLineStart_line (l : Line) (tag : Byte) (u : State) :
    actLineStart tag [lineByte l] u = reply tag .lineStart u (lineStart l u) := by
  rw [actLineStart, lineCheck_passes]

/-- A request answered with OK on a state with the admitted host link, by its owner's outcome. -/
theorem answers_of_ok {s u : State} {tag : Byte} {k : ReqKind} {outcome : Answer} {data : List Byte}
    (e : outcome = .ok (data, u)) (hu : u.hli = (admitEntry tag k s).hli) (x : State) :
    Answers s (startTx (reply tag k x outcome)) tag k .ok data ∧
      (startTx (reply tag k x outcome)).setHli s.hli = u.setHli s.hli := by
  rw [e]
  exact answers_post hu .ok data

/-- Settles O44: the line byte, then the state of the line decide. -/
theorem lineStartByLineState : Obligations.LineStartByLineState := by
  intro s tag body hadm
  let u := admitEntry tag .lineStart s
  refine ⟨startTx (actLineStart tag body u),
    (exec_command .lineStart tag body s).trans (congrArg _ (hostRecord_admitted hadm .lineStart)), ?_⟩
  split
  next line =>
    refine ⟨fun habove => turnedAway_of_post (actLineStart_above habove tag _), ?_⟩
    rintro l rfl c started
    rw [actLineStart_line]
    refine ⟨fun hstate => ?_, fun hstate => ?_, fun hstate => ?_, fun hstate => ?_, fun hstate => ?_⟩
    · exact turnedAway_of_post (by simp only [lineStart, u, admitEntry_lc, show (s.lc l).state = _ from hstate]; rfl)
    · refine answers_of_ok (u := u) ?_ rfl u
      simp only [lineStart, u, admitEntry_lc, show (s.lc l).state = _ from hstate]
    · obtain ⟨hans, hrest⟩ := answers_of_ok (s := s) (tag := tag) (k := .lineStart) (data := []) (u := enterRunning l u) (outcome := lineStart l u)
        (by simp only [lineStart, u, admitEntry_lc, show (s.lc l).state = _ from hstate]) (by simp [enterRunning, u]) u
      exact ⟨hans, hrest.trans (by cases l <;> rfl)⟩
    · obtain ⟨hans, hrest⟩ := answers_of_ok (s := s) (tag := tag) (k := .lineStart) (data := [])
        (u := (enterRunning l u).modLineAttn l (fun a => { a with faultReported := false })) (outcome := lineStart l u)
        (by simp only [lineStart, u, admitEntry_lc, show (s.lc l).state = _ from hstate]) (by simp [enterRunning, u]) u
      refine ⟨hans, ?_, hrest.trans (by cases l <;> rfl)⟩
      rw [State.lineFault, (sameBlocks_of_setHli hrest).lc]
      cases l <;> rfl
    · obtain ⟨hans, hrest⟩ := answers_of_ok (s := s) (tag := tag) (k := .lineStart) (data := []) (u := startRound l (enterRunning l u))
        (outcome := lineStart l u) (by simp only [lineStart, u, admitEntry_lc, show (s.lc l).state = _ from hstate])
        (by simp [enterRunning, u]) u
      refine ⟨hans, hrest.trans ?_⟩
      rw [startRound_eq]
      cases l <;> rfl
  next hlength => exact turnedAway_of_post (actLineStart_length hlength tag _)

/-! ## LINE_STOP (R143) -/

theorem actLineStop_length {body : List Byte} (h : ∀ line, body ≠ [line]) (tag : Byte) (u : State) :
    actLineStop tag body u = post tag .lineStop .badLength [] u := by
  unfold actLineStop
  split
  · exact absurd rfl (h _)
  · rfl

theorem actLineStop_above {line : Byte} (h : 1 < line.toNat) (tag : Byte) (u : State) :
    actLineStop tag [line] u = post tag .lineStop .badValue [] u := by
  simp only [actLineStop, lineOf_above h]

theorem actLineStop_line (l : Line) (tag : Byte) (u : State) : actLineStop tag [lineByte l] u = lineStop tag l u := by
  simp only [actLineStop, lineOf_lineByte]

theorem enterStopped_eq (l : Line) (s : State) :
    enterStopped l s = s.setLc l { s.lc l with
      state := .stopped, deferred := .clear, phase := if (s.lc l).bcastFrame = none then (s.lc l).phase else .probe } := by
  have phase : (if (s.lc l).bcastFrame.isSome then .probe else (s.lc l).phase) =
      if (s.lc l).bcastFrame = none then (s.lc l).phase else .probe := by
    cases (s.lc l).bcastFrame <;> rfl
  simp only [enterStopped, State.modLc, phase]

/-- Settles O45: the line byte, the state of the line, then its visit decide. -/
theorem lineStopStopsOrWaits : Obligations.LineStopStopsOrWaits := by
  intro s tag body hadm
  let u := admitEntry tag .lineStop s
  refine ⟨startTx (actLineStop tag body u),
    (exec_command .lineStop tag body s).trans (congrArg _ (hostRecord_admitted hadm .lineStop)), ?_⟩
  split
  next line =>
    refine ⟨fun habove => turnedAway_of_post (actLineStop_above habove tag _), ?_⟩
    rintro l rfl c
    have hstate : (u.lc l).state = c.state := by rw [admitEntry_lc]
    have hvisit : (u.lc l).visit = c.visit := by rw [admitEntry_lc]
    rw [actLineStop_line]
    refine ⟨fun hnot => turnedAway_of_post (if_neg (hstate ▸ hnot)), fun hrun hnone => ?_, fun hrun hsome => ?_⟩
    · have act : lineStop tag l u = post tag .lineStop .ok [] (enterStopped l u) := by
        rw [lineStop, if_pos (hstate.trans hrun), if_neg (by rw [hvisit, hnone]; exact Bool.false_ne_true)]
      rw [act, enterStopped_eq, admitEntry_lc]
      exact answers_post_setLc s tag .lineStop l _ []
    · have act : lineStop tag l u = u.modLc l (fun c => { c with state := .stopping, stopTag := some tag }) := by
        rw [lineStop, if_pos (hstate.trans hrun), if_pos (by rw [hvisit]; exact Option.isSome_iff_ne_none.mpr hsome)]
      rw [act]
      cases l <;> rfl
  next hlength => exact turnedAway_of_post (actLineStop_length hlength tag _)

/-! ## LINE_RESET (R145) -/

theorem actLineReset_length {body : List Byte} (h : ∀ line, body ≠ [line]) (tag : Byte) (u : State) :
    actLineReset tag body u = post tag .lineReset .badLength [] u := by
  unfold actLineReset
  split
  · exact absurd rfl (h _)
  · rfl

theorem actLineReset_above {line : Byte} (h : 1 < line.toNat) (tag : Byte) (u : State) :
    actLineReset tag [line] u = post tag .lineReset .badValue [] u := by
  simp only [actLineReset, lineCheck_refuses h, reply]

theorem actLineReset_line (l : Line) (tag : Byte) (u : State) :
    actLineReset tag [lineByte l] u = post tag .lineReset .ok [] (lineResetAct l u) := by
  rw [actLineReset, lineCheck_passes]
  rfl

/-- Settles O46: the line byte decides, and a line is reset part by part. -/
theorem lineResetDisablesTheLine : Obligations.LineResetDisablesTheLine := by
  intro s tag body hadm
  refine ⟨actLineReset tag body (admitEntry tag .lineReset s),
    (exec_command .lineReset tag body s).trans (congrArg _ (hostRecord_admitted hadm .lineReset)), ?_⟩
  split
  next line =>
    refine ⟨fun habove => turnedAway_of_post (actLineReset_above habove tag _), ?_⟩
    rintro l rfl admitted
    obtain ⟨u, w, hcut, hsettled, hdisabled⟩ := lineResetAct_facts l tag admitted
    rw [show (admitted.lc l) = s.lc l from setHli_lc s _ l] at hsettled
    refine ⟨u, w, hcut, hsettled, ?_⟩
    rw [actLineReset_line]
    exact hdisabled
  next hlength => exact turnedAway_of_post (actLineReset_length hlength tag _)

end Sys2Proof.Machine
end

section
/-!
The rounds of a line: the next visit, the frame it sends, and the windows of a round (R107 to R114, R121, R122).
-/

namespace Sys2Proof.Machine

/-! ## The next visit (R109 to R114) -/

theorem mayAct_of_lineFree {s : State} {l : Line} (h : s.lineFree l) : (s.lc l).mayAct = true := by
  obtain ⟨-, hrun, hvisit, hframe⟩ := h
  simp [LineCtl.mayAct, LineCtl.free, hrun, hvisit, hframe]

theorem passOver_eq (c : LineCtl) : c.passOver = { c with cursor := c.passOver.cursor } := by
  unfold LineCtl.passOver
  split <;> rfl

theorem passOver_notWalking {c : LineCtl} (h : c.phase ≠ .ringWalk) : c.passOver = c := if_neg h

theorem passOver_cursor {c : LineCtl} (h : c.phase = .ringWalk) :
    c.passOver.cursor = c.cursor + ((c.ring.drop c.cursor).takeWhile (fun e => !e.due)).length := by
  rw [LineCtl.passOver, if_pos h]

/-- A line in its ring walk passes over entries, and one in its probe window takes it up: never both. -/
theorem passOver_catchUp (c : LineCtl) : c.passOver.catchUp = c.probeTakenUp.passOver := by
  by_cases h : c.phase = .ringWalk
  · have hphase : c.passOver.phase ≠ .probe := by
      rw [passOver_eq]
      exact fun e => absurd (h.symm.trans e) (by decide)
    rw [catchUp_eq, (probeTakenUp_phase _).1 hphase, (probeTakenUp_phase c).1 (by rw [h]; decide)]
  · rw [passOver_notWalking h, catchUp_eq, passOver_notWalking]
    by_cases hp : c.phase = .probe
    · rcases (probeTakenUp_phase c).2 hp with hi | ⟨hi, -⟩ <;> rw [hi] <;> decide
    · rwa [(probeTakenUp_phase c).1 hp]

/-- The visit state does not depend on the cursor that it replaces. -/
theorem visitBegun_cursor (r : State) (l : Line) (c : LineCtl) (n : Nat) (i : Slot) (o : Origin) (cursor : Nat) (d : Deferred)
    (served : Bool) :
    (r.setLc l { c with cursor := n }).visitBegun l i o cursor d served = (r.setLc l c).visitBegun l i o cursor d served := by
  cases l <;> rfl

/-- VISIT_START on a free line, by what the line chooses once its window is taken up and its walk has passed on. -/
theorem visitStart_free {r : State} {l : Line} (h : r.lineFree l) :
    let c := (r.lc l).probeTakenUp
    let s := r.setLc l c
    (c.passOver.choose = none → exec (.visitStart l) r = .next (r.setLc l c.passOver)) ∧
      ∀ ch, c.passOver.choose = some ch →
        exec (.visitStart l) r = .next (s.visitBegun l ch.slot ch.origin
          (if ch.origin = .ring then c.passOver.cursor + 1 else c.passOver.cursor) ch.deferred (c.idleServed || c.phase == .idle)) := by
  intro c s
  have hexec : exec (.visitStart l) r = .next (visitStart l r) := congrArg Host.Outcome.next (quietEvent_awake h.1 _)
  have act : visitStart l r = match c.passOver.choose with
      | none => r.setLc l c.passOver
      | some ch => startVisit l ch (r.setLc l c.passOver) := by
    rw [visitStart, if_pos (mayAct_of_lineFree h)]
    simp only [passOver_catchUp]
    rfl
  refine ⟨fun hnone => ?_, fun ch hch => ?_⟩
  · rw [hexec, act, hnone]
  · rw [hexec, act, hch]
    dsimp only
    rw [startVisit_visitBegun, setLc_lc_same, passOver_eq c, visitBegun_cursor]

theorem contend_first {c : LineCtl} {i : Slot} {d : Deferred} (h : c.deferred = d ∨ c.urgent = [] ∨ c.urgent.head? = some i)
    (o : Origin) : c.contend i o d = { slot := i, origin := o, deferred := .clear } := by
  unfold LineCtl.contend
  split
  · rfl
  · rename_i hd
    rcases h with h | h | h
    · exact absurd h hd
    · rw [h]
    · obtain ⟨us, hus⟩ := List.head?_eq_some_iff.mp h
      rw [hus]
      exact if_pos rfl

theorem contend_urgent {c : LineCtl} {i u : Slot} {us : List Slot} {d : Deferred} (hd : c.deferred ≠ d) (hu : c.urgent = u :: us)
    (hne : u ≠ i) (o : Origin) : c.contend i o d = { slot := u, origin := .urgent, deferred := d } := by
  rw [LineCtl.contend, if_neg hd, hu]
  exact if_neg hne

theorem choose_ring {c : LineCtl} (h : c.phase = .ringWalk) :
    c.choose = (c.ring[c.cursor]?).map (fun e => c.contend e.slot .ring .ring) := by
  rw [LineCtl.choose, h]

theorem choose_probe {c : LineCtl} (h : c.phase = .probe) :
    c.choose = c.probeList.head?.map (fun i => c.contend i .probe .probe) := by
  rw [LineCtl.choose, h]

theorem takeWhile_notDue {before after : List RingEntry} {e : RingEntry} (hb : ∀ b ∈ before, b.due = false) (he : e.due = true) :
    (before ++ e :: after).takeWhile (fun e => !e.due) = before := by
  rw [List.takeWhile_append_of_pos (by simpa using hb), List.takeWhile_cons_of_neg (by simp [he]), List.append_nil]

theorem takeWhile_noneDue {ahead : List RingEntry} (h : ∀ e ∈ ahead, e.due = false) : ahead.takeWhile (fun e => !e.due) = ahead :=
  List.takeWhile_eq_self_iff.mpr (by simpa using h)

/-- Settles O49: phase by phase, what contends for the visit. -/
theorem visitStartChoosesTheNextVisit : Obligations.VisitStartChoosesTheNextVisit := by
  intro r l hfree c s ahead
  obtain ⟨quiet, begins⟩ := visitStart_free hfree
  refine ⟨fun hphase => ⟨fun before after e hahead hb he => ?_, fun hnone => ?_⟩, fun hphase => ?_, fun hphase i is hlist => ?_, fun hphase => ?_⟩
  · have hcursor : c.passOver.cursor = c.cursor + before.length := by
      rw [passOver_cursor hphase, show c.ring.drop c.cursor = _ from hahead, takeWhile_notDue hb he]
    have hentry : c.ring[c.cursor + before.length]? = some e := by
      rw [← List.getElem?_drop, show c.ring.drop c.cursor = _ from hahead, List.getElem?_append_right (Nat.le_refl _), Nat.sub_self]
      rfl
    have hchoose : c.passOver.choose = some (c.passOver.contend e.slot .ring .ring) := by
      rw [passOver_eq c, choose_ring (c := { c with cursor := c.passOver.cursor }) hphase, hcursor, hentry]
      rfl
    have hserved : (c.idleServed || c.phase == .idle) = c.idleServed := by rw [hphase]; exact Bool.or_false _
    have visit := begins _ hchoose
    rw [hserved, hcursor, passOver_eq c] at visit
    refine ⟨fun u us hd hu hne => ?_, fun hfirst => ?_⟩
    · rw [contend_urgent (c := { c with cursor := c.passOver.cursor }) hd hu hne] at visit
      exact visit
    · rw [contend_first (c := { c with cursor := c.passOver.cursor }) hfirst] at visit
      exact visit
  · have hcursor : c.passOver.cursor = c.cursor + ahead.length := by rw [passOver_cursor hphase, takeWhile_noneDue hnone]
    have hend : c.ring[c.cursor + ahead.length]? = none := by
      rw [← List.getElem?_drop]
      exact List.getElem?_eq_none (Nat.le_refl _)
    have visit := quiet (by
      rw [passOver_eq c, choose_ring (c := { c with cursor := c.passOver.cursor }) hphase, hcursor, hend]
      rfl)
    rw [passOver_eq c, hcursor] at visit
    rw [visit]
    cases l <;> rfl
  · have hpass := passOver_notWalking (c := c) (by rw [hphase]; decide)
    have visit := quiet (by rw [hpass, LineCtl.choose, hphase])
    rwa [hpass] at visit
  · have hpass := passOver_notWalking (c := c) (by rw [hphase]; decide)
    have visit := begins (c.contend i .probe .probe) (by rw [hpass, choose_probe hphase, hlist]; rfl)
    rw [hpass, show (c.idleServed || c.phase == .idle) = c.idleServed by rw [hphase]; exact Bool.or_false _] at visit
    refine ⟨fun u us hd hu hne => ?_, fun hfirst => ?_⟩
    · rw [contend_urgent hd hu hne] at visit
      exact visit
    · rw [contend_first hfirst] at visit
      exact visit
  · intro ended
    have hpass := passOver_notWalking (c := c) (by rw [hphase]; decide)
    refine ⟨fun hquiet => ?_, fun u us hu hgoes => ?_⟩
    · have visit := quiet (by
        rw [hpass, choose_idle c hphase]
        rcases hquiet with hempty | hended
        · rw [hempty]
          exact ite_self none
        · exact if_neg fun h => (idleServes_iff c).mp h hended)
      rwa [hpass] at visit
    · have visit := begins { slot := u, origin := .urgent, deferred := .clear } (by
        rw [hpass, choose_idle c hphase, if_pos ((idleServes_iff c).mpr hgoes), hu]
        rfl)
      rw [hpass, show (c.idleServed || c.phase == .idle) = true by rw [hphase]; exact Bool.or_true _] at visit
      exact visit

/-! ## The frame of a visit (R121, R122) -/

theorem nextSegment_none {d : Drop} (h : d.outbox = [] ∨ d.settleWait = true) : d.nextSegment = none := by
  unfold Drop.nextSegment
  split
  · rfl
  · rename_i m rest hout
    exact if_pos (h.resolve_left (by simp [hout]))

theorem nextSegment_some {d : Drop} {m : OutMsg} {rest : List OutMsg} {cell : Cell} (hw : d.settleWait = false) (ho : d.outbox = m :: rest)
    (hc : m.chain[d.link.segIndex]? = some cell) :
    d.nextSegment = some ({ id := m.id, seg := d.link.segIndex }, decide (d.link.segIndex = 0),
      decide (d.link.segIndex + 1 = m.chain.length), cell.data) := by
  rw [Drop.nextSegment, ho]
  simp only [hw, Bool.false_eq_true, ↓reduceIte, hc]

theorem buildFrame_poll {s : State} {i : Slot} (h : (s.drop i).link.resyncNeeded = false) (hn : (s.drop i).nextSegment = none) :
    s.buildFrame i = .mk .poll (frameBytes (s.drop i).address
      (ctrlByte MasterKind.poll.nibble false (s.drop i).link.expectedIn (s.holdFor (s.drop i))) 0x00#8 []) none := by
  simp only [State.buildFrame, h, hn]
  rfl

theorem buildFrame_deliver {s : State} {i : Slot} {named : Delivered} {first last : Bool} {data : List Byte}
    (h : (s.drop i).link.resyncNeeded = false) (hn : (s.drop i).nextSegment = some (named, first, last, data)) :
    s.buildFrame i = .mk .deliver (frameBytes (s.drop i).address
      (ctrlByte MasterKind.deliver.nibble (s.drop i).link.seqOut (s.drop i).link.expectedIn (s.holdFor (s.drop i)))
      (segfByte first last data.length) data) (some named) := by
  simp only [State.buildFrame, h, hn]
  rfl

theorem segfByte_eq (first last : Bool) {n : Nat} (h : n ≤ 32) :
    segfByte first last n = BitVec.ofNat 8 ((if first then 128 else 0) + (if last then 64 else 0) + n) := by
  rw [segfByte, byteOf, flag_weight, flag_weight, Nat.mod_eq_of_lt (Nat.lt_of_le_of_lt h (by decide))]

/-- Settles O50: the link record decides the kind, and the bytes are those of its frame. -/
theorem frameFollowsTheLinkRecord : Obligations.FrameFollowsTheLinkRecord := by
  intro s i d b closed bit hold ctrl
  have hctrl : ∀ (k : MasterKind) (seq : Bool), ctrlByte k.nibble seq d.link.expectedIn (s.holdFor d) = ctrl (16 * k.nibble) seq :=
    fun k seq => by
      simp only [ctrlByte, byteOf, ctrl, bit, flag_weight]
      rfl
  refine ⟨fun hresync => ?_, fun hresync hempty => ?_, fun hresync hwait m rest cell hout hcell hlen => ?_⟩
  · have hb : b = _ := if_pos hresync
    rw [hb]
    exact ⟨rfl, rfl, rfl⟩
  · have hb : b = _ := buildFrame_poll hresync (nextSegment_none hempty)
    rw [hctrl] at hb
    rw [hb]
    exact ⟨rfl, rfl, rfl⟩
  · have hb : b = _ := buildFrame_deliver hresync (nextSegment_some hwait hout hcell)
    rw [hctrl, segfByte_eq _ _ hlen] at hb
    rw [hb]
    refine ⟨rfl, rfl, ?_⟩
    simp only [decide_eq_true_eq, bit]
    rfl

/-! ## The windows of a round (R107 to R113) -/

theorem probeOpened_phase (c : LineCtl) (p : RoundPhase) : { c with phase := p }.probeOpened = c.probeOpened := by
  unfold LineCtl.probeOpened
  split <;> rfl

/-- What taking up the probe window keeps of the line. -/
theorem probeTakenUp_keeps (c : LineCtl) :
    c.probeTakenUp.cfg = c.cfg ∧ c.probeTakenUp.roundStart = c.roundStart ∧ c.probeTakenUp.roundNumber = c.roundNumber := by
  unfold LineCtl.probeTakenUp LineCtl.probeOpened
  split_ifs <;> exact ⟨rfl, rfl, rfl⟩

theorem enterProbe_eq (l : Line) (s : State) : enterProbe l s = s.setLc l (s.lc l).probeOpened := by
  rw [enterProbe, State.modLc, probeWindow_eq, probeOpened_phase]

/-- With no due entry ahead the walk passes to the end of the ring. -/
theorem passOver_end {c : LineCtl} (h : c.phase = .ringWalk) (hnone : ∀ e ∈ c.ring.drop c.cursor, e.due = false) :
    c.passOver = { c with cursor := max c.cursor c.ring.length } := by
  rw [passOver_eq, passOver_cursor h, takeWhile_noneDue hnone, List.length_drop]
  congr 1
  omega

/-- BROADCAST_WINDOW at the end of the ring walk of a free line opens the window. -/
theorem broadcastWindow_opens {s : State} {l : Line} (h : s.lineFree l) (hphase : (s.lc l).phase = .ringWalk)
    (hnone : ∀ e ∈ (s.lc l).ring.drop (s.lc l).cursor, e.due = false) :
    broadcastWindow l s = openWindow l (s.setLc l { s.lc l with cursor := max (s.lc l).cursor (s.lc l).ring.length }) := by
  have hover : (s.lc l).passOver.walkOver = true := by
    rw [passOver_end hphase hnone, LineCtl.walkOver, hphase]
    simp
  rw [broadcastWindow, if_pos (by rw [mayAct_of_lineFree h, hover]; rfl), State.modLc, passOver_end hphase hnone]

/-! ### The broadcast that is taken (R70, R102) -/

/-- The broadcasts of a conserved store have each its own record. -/
theorem bcasts_nodup {s : State} (h : StoreConserved s) : s.store.bcasts.Nodup := by
  obtain ⟨-, hrecs, -, -⟩ := h
  have hall : s.allRecords.Nodup := hrecs.nodup_iff.mpr List.nodup_range
  exact (List.nodup_append.mp hall).2.1.of_map Bcast.recNo

theorem off_on_other (b : Bcast) (l : Line) : (b.off l).on l.other = b.on l.other := by cases l <;> rfl

theorem done_iff (b : Bcast) (l : Line) : b.done = (!b.on l && !b.on l.other) := by
  cases l
  · rfl
  · exact Bool.and_comm _ _

/-- A line takes one of its broadcasts: its queue loses that one, the other line's keeps it in place, and the store gets its
cell and record back when no line holds it (R70, R110). -/
theorem takeOff_facts {s : State} {l : Line} {b : Bcast} {rest : List Bcast} (h : StoreConserved s) (hq : s.bcastQueue l = b :: rest) :
    (takeOff l b s).bcastQueue l = rest ∧
      (takeOff l b s).bcastQueue l.other = (s.bcastQueue l.other).map (fun x => if x = b then x.off l else x) ∧
      (takeOff l b s).store.freeCells = s.store.freeCells ++ (if b.on l.other then [] else [b.cell.no]) ∧
      (takeOff l b s).store.freeRecords = s.store.freeRecords ++ (if b.on l.other then [] else [b.recNo]) := by
  obtain ⟨hbcasts, hcells, hrecs⟩ := dropDone_store (s.store.bcasts.map (fun x => if x = b then x.off l else x)) s
  have hnodup := bcasts_nodup h
  obtain ⟨-, -, -, hwaits⟩ := h
  have hmem : b ∈ s.store.bcasts := (List.mem_filter.mp (show b ∈ s.bcastQueue l by rw [hq]; exact List.mem_cons_self)).1
  have hqueue : (s.bcastQueue l).Nodup := hnodup.filter _
  rw [hq] at hqueue
  have hrest : b ∉ rest := (List.nodup_cons.mp hqueue).1
  have queued : ∀ m : Line, (takeOff l b s).bcastQueue m =
      (s.store.bcasts.filter (fun x => (if x = b then x.off l else x).on m)).map (fun x => if x = b then x.off l else x) := fun m => by
    rw [State.bcastQueue, takeOff, hbcasts, List.filter_filter, List.filter_map]
    congr 1
    refine List.filter_congr fun x _ => ?_
    have : ∀ y : Bcast, (y.on m && !y.done) = y.on m := fun y => by
      rw [done_iff y m]
      cases y.on m <;> simp
    exact this _
  have gone : (s.store.bcasts.map (fun x => if x = b then x.off l else x)).filter Bcast.done =
      if b.on l.other then [] else [b.off l] := by
    have hdone : ∀ x ∈ s.store.bcasts, (if x = b then x.off l else x).done = (decide (x = b) && !b.on l.other) := fun x hx => by
      by_cases hxb : x = b
      · rw [if_pos hxb, hxb, done_iff _ l, off_on, off_on_other]
        simp
      · have := hwaits x hx
        rw [if_neg hxb, Bcast.done]
        simp only [hxb, decide_false, Bool.false_and]
        rcases this with hw | hw <;> simp [hw]
    have hfilter : s.store.bcasts.filter (Bcast.done ∘ fun x => if x = b then x.off l else x) =
        s.store.bcasts.filter (fun x => decide (x = b) && !b.on l.other) := List.filter_congr hdone
    rw [List.filter_map, hfilter]
    cases b.on l.other with
    | true => simp
    | false =>
      have hone : s.store.bcasts.filter (fun x => decide (x = b)) = [b] := by
        rw [List.filter_eq, List.count_eq_one_of_mem hnodup hmem]
        rfl
      simp [hone]
  refine ⟨?_, ?_, ?_, ?_⟩
  · have hleft : s.store.bcasts.filter (fun x => (if x = b then x.off l else x).on l) = rest := by
      have hsplit : s.store.bcasts.filter (fun x => (if x = b then x.off l else x).on l) =
          (s.bcastQueue l).filter (fun x => decide (x ≠ b)) := by
        rw [State.bcastQueue, List.filter_filter]
        refine List.filter_congr fun x _ => ?_
        by_cases hxb : x = b
        · simp [hxb, off_on]
        · simp [hxb]
      rw [hsplit, hq, List.filter_cons_of_neg (by simp), List.filter_eq_self]
      exact fun x hx => by simpa using fun e : x = b => hrest (e ▸ hx)
    rw [queued l, hleft]
    exact (List.map_congr_left (g := id) fun x hx => if_neg fun e : x = b => hrest (e ▸ hx)).trans (List.map_id _)
  · rw [queued l.other]
    congr 1
    refine List.filter_congr fun x _ => ?_
    split
    · exact off_on_other x l
    · rfl
  · refine hcells.trans ?_
    rw [gone]
    cases b.on l.other <;> cases l <;> rfl
  · refine hrecs.trans ?_
    rw [gone]
    cases b.on l.other <;> cases l <;> rfl

/-- The frame of a broadcast, byte by byte (R102, R180). -/
theorem bcast_frame_eq {b : Bcast} (h : b.cell.data.length ≤ 32) :
    let body := b.target.addr :: 0x40#8 :: BitVec.ofNat 8 (192 + b.cell.data.length) :: b.cell.data
    b.frame = body ++ [hiByte (crc16 body), loByte (crc16 body)] := by
  rw [Bcast.frame, segfByte_eq _ _ h]
  rfl

/-! ### The end of the idle period (R112) -/

theorem passPeriod_eq (l : Line) (s : State) :
    passPeriod l s = s.setLc l.other (if (s.lc l.other).roundStart < (s.lc l).roundStart then
      { s.lc l.other with roundElapsed := (s.lc l.other).roundElapsed + (s.lc l).cfg.roundPeriod.toNat } else s.lc l.other) := rfl

theorem idleOver_iff (c : LineCtl) : c.idleOver = true ↔ c.phase = .idle ∧ (c.urgent = [] ∨ c.idleServed = true) := by
  simp [LineCtl.idleOver]

/-- A round begins on a line whose controller has been replaced, with a change on the other line. -/
theorem startRound_setLc (l : Line) (s : State) (other c : LineCtl) :
    startRound l ((s.setLc l.other other).setLc l c) =
      ((s.setTimebase (s.timebase + 1)).setLc l.other other).setLc l { c with
        ring := c.ring.map (fun e => { e with due := dueMark (s.drop e.slot).cls c.roundNumber })
        cursor := 0, phase := .ringWalk, roundStart := s.timebase + 1, roundElapsed := 0, probeStep := false
        deferred := .clear, idleServed := false } := by
  cases l <;> rfl

/-- Settles O51: the broadcast window by the queue, the end of its frame, and the end of the idle period. -/
theorem roundGoesThroughItsWindows : Obligations.RoundGoesThroughItsWindows := by
  intro s l hstore c ended marked
  refine ⟨fun hfree hphase hnone => ?_, fun f hreset hframe hsending => ?_, ?_⟩
  · have hexec : exec (.broadcastWindow l) s = .next (startTx (openWindow l (s.setLc l ended))) :=
      congrArg Host.Outcome.next ((if_neg (by simp [hfree.1])).trans (congrArg startTx (broadcastWindow_opens hfree hphase hnone)))
    have hqueue : (s.setLc l ended).bcastQueue l = s.bcastQueue l := by simp [State.bcastQueue]
    refine ⟨fun hempty => ?_, fun b rest hq => ⟨_, hexec, ?_⟩⟩
    · rw [hexec, openWindow, hqueue, hempty]
      dsimp only
      rw [enterProbe_eq, setLc_lc_same]
      cases l <;> rfl
    · have hopen : openWindow l (s.setLc l ended) = takeOff l b ((s.setLc l ended).modLc l (fun c =>
          { c with phase := .broadcast, bcastFrame := some { chars := sentChars b.frame, sending := false } })) := by
        rw [openWindow, hqueue, hq]
      let w := (s.setLc l ended).modLc l (fun c =>
        { c with phase := .broadcast, bcastFrame := some { chars := sentChars b.frame, sending := false } })
      have hw : StoreConserved w := storeConserved_congr (s := s) (by simp [w]) (by simp [w]) (by simp [w]) (by simp [w]) hstore
      obtain ⟨hmine, hother, hcells, hrecs⟩ := takeOff_facts hw (show w.bcastQueue l = b :: rest by simpa [State.bcastQueue, w] using hq)
      rw [hopen]
      refine ⟨?_, fun hlen => bcast_frame_eq hlen, ?_, ?_, ?_, ?_, ?_, fun j => ?_, ?_⟩
      · have hsent : sentChars b.frame = b.frame.map cleanChar := List.map_congr_left fun x _ => (cleanChar_eq x).symm
        rw [startTx_lc, takeOff_lc, modLc_lc_same, setLc_lc_same, hsent]
      · rw [startTx_bcastQueue]
        exact hmine
      · rw [startTx_bcastQueue]
        refine hother.trans ?_
        simp [State.bcastQueue, w]
      · rw [startTx_store]
        refine hcells.trans ?_
        simp [w]
      · rw [startTx_store]
        refine hrecs.trans ?_
        simp [w]
      · simp
      · simp
      · simp
  · refine congrArg Host.Outcome.next ((quietEvent_awake hreset _).trans ?_)
    have hsome : (s.lc l).bcastFrame = some f := hframe
    simp only [bcastFrameEnd, hsome, hsending, ↓reduceIte]
    split
    · rw [enterProbe_eq, modLc_lc_same]
      cases l <;> rfl
    · rfl
  · intro hfree p
    refine ⟨fun hstays => ?_, ?_⟩
    · refine congrArg Host.Outcome.next ((quietEvent_awake hfree.1 _).trans (if_neg ?_))
      rw [mayAct_of_lineFree hfree, Bool.true_and, catchUp_eq, idleOver_iff]
      rintro ⟨hidle, hdue⟩
      rcases hstays with h | ⟨hurgent, hserved⟩
      · exact h hidle
      · exact hdue.elim hurgent (fun h => Bool.false_ne_true (hserved.symm.trans h))
    · intro d passed hidle hdue
      refine congrArg Host.Outcome.next ((quietEvent_awake hfree.1 _).trans ((if_pos ?_).trans ?_))
      · rw [mayAct_of_lineFree hfree, Bool.true_and, catchUp_eq]
        exact (idleOver_iff p).mpr ⟨hidle, hdue⟩
      · obtain ⟨hcfg, hstart, hnumber⟩ := probeTakenUp_keeps c
        have hpassed : passPeriod l s = s.setLc l.other passed := by
          rw [passPeriod_eq]
          simp only [passed, p, hcfg, hstart]
          rfl
        have hround : (passPeriod l s).modLc l (fun c => { c.catchUp with roundNumber := c.roundNumber + 1#8 }) =
            (s.setLc l.other passed).setLc l { p with roundNumber := p.roundNumber + 1#8 } := by
          have hline : (s.setLc l.other passed).lc l = c := by cases l <;> rfl
          rw [hpassed, State.modLc, hline, catchUp_eq, hnumber]
        rw [hround, startRound_setLc]
        simp only [marked, hnumber, p, dueMark]

end Sys2Proof.Machine
end

section
/-!
What reaches the part from the field: a character on a line (R1, R15 to R17), and an inbound segment at the store (R88 to R94).
-/

namespace Sys2Proof.Machine

/-! ## Characters (R1, R15 to R17) -/

/-- Out of reset, a character has its act, and the transmitter then chooses. -/
theorem exec_fieldCharacter {s : State} (hreset : s.hli.inReset = false) (l : Line) (ch : FieldChar) :
    exec (.fieldCharacterReceived l ch) s = .next (startTx (fieldChar l ch s)) := by
  have hloud : loudEvent (fieldChar l ch) s = startTx (fieldChar l ch s) := by simp [loudEvent, hreset]
  rw [← hloud]; rfl

/-- A low stop bit holds the input low, and the gap measurement with it; any other character leaves both (log 13). -/
theorem noteStopError_eq (l : Line) (ch : FieldChar) (s : State) :
    noteStopError l ch s =
      s.setLc l (if ch.stop then s.lc l else { s.lc l with rxLow := true, gapHeld := true }) := by
  cases hstop : ch.stop
  · simp [noteStopError, charStopError, hstop, State.modLc]
  · simp [noteStopError, charStopError, hstop, setLc_self]

theorem fieldChar_low {s : State} {l : Line} (h : (s.lc l).rxLow = true) (ch : FieldChar) : fieldChar l ch s = s := by
  simp [fieldChar, h]

/-- A character that no visit waits for leaves only the mark of its stop bit (R1, R16). -/
theorem fieldChar_unheard {s : State} {l : Line} (hlow : (s.lc l).rxLow = false)
    (h : (s.lc l).visit = none ∨ (s.lc l).receiver = .notWaiting ∨ s.driving l = true) (ch : FieldChar) :
    fieldChar l ch s = noteStopError l ch s := by
  rcases h with hvisit | hreceiver | hdriving
  · simp [fieldChar, hlow, hvisit]
  · simp [fieldChar, hlow, hreceiver, Receiver.bytes]
  · simp [fieldChar, hlow, hdriving]

/-- A character that passes its tests has its stop bit, so that the line hears it with its input free. -/
theorem heard_of_passing {s : State} {l : Line} {v : Visit} {got : List Byte} {ch : FieldChar} (h : ¬ v.failsAt got ch) :
    s.heard l got ch = s.setLc l { s.lc l with receiver := .holding got } := by
  have hclean : ch = cleanChar ch.data := not_not.mp (not_or.mp h).1
  have hstop : ch.stop = true := by rw [hclean]; rfl
  simp [State.heard, hstop]

/-- Settles O54: the character is either judged by the receiver of the visit or it leaves no more than the mark of its stop
bit, and what is judged either goes on or fails the attempt. -/
theorem fieldCharacterIsTakenOrDiscarded : Obligations.FieldCharacterIsTakenOrDiscarded := by
  refine ⟨fun s l ch hreset => ⟨fun hlow => ?_, fun hlow hunheard => ?_⟩, fun s l v got ch hrec hexp => ⟨fun hpass hmore => ?_,
    fun hfail hleft => ?_⟩⟩
  · rw [exec_fieldCharacter hreset, fieldChar_low hlow]
  · rw [exec_fieldCharacter hreset, fieldChar_unheard hlow hunheard, noteStopError_eq]
  · have hlength : replyLength (got ++ [ch.data]) ≠ some (got.length + 1) := by simpa using hmore
    rw [exec_fieldCharacter hrec.1, fieldChar_receives l v s got ch hrec,
      takeReplyChar_goesOn l v got ch _ hexp hpass hlength, heard_of_passing hpass, setLc_lc_same, setLc_setLc_same]
  · have hretry := (attemptFailed_facts l v (s.heard l got ch)).1 hleft
    rw [exec_fieldCharacter hrec.1, fieldChar_receives l v s got ch hrec, takeReplyChar_fails l v got ch _ hexp hfail, hretry,
      heard_drop]

/-! ## Segments (R88 to R94) -/

/-- The error total counts up to its bound. -/
theorem satInc16_eq (n : Half) : satInc16 n = BitVec.ofNat 16 (min 65535 (n.toNat + 1)) := by
  have hlt := n.isLt
  unfold satInc16
  split
  next hfull => rw [hfull]; rfl
  next hfree =>
    have hne : n.toNat ≠ 65535 := fun h => hfree (BitVec.eq_of_toNat_eq (by simpa using h))
    apply BitVec.eq_of_toNat_eq
    simp only [BitVec.toNat_add, BitVec.toNat_ofNat]
    omega

@[simp] theorem takeAway_freeCells (m n : Nat) (s : State) :
    (takeAway m n s).store.freeCells = s.store.freeCells.drop m := rfl

@[simp] theorem takeAway_freeRecords (m n : Nat) (s : State) :
    (takeAway m n s).store.freeRecords = s.store.freeRecords.drop n := rfl

/-- A message that joins the inbox or waits as the partial message changes nothing of the store's lists. -/
theorem settle_store (i : Slot) (last : Bool) (m : InMsg) (s : State) :
    (if last then joinInbox i m s else s.modDrop i (fun d => { d with partialMsg := some m })).store = s.store := by
  cases last
  · rfl
  · exact joinInbox_store i m s

theorem cutOff_none {i : Slot} {s : State} (h : (s.drop i).partialMsg = none) : cutOff i s = s := by
  simp [cutOff, h]

theorem inboundCount_noPartial {d : Drop} (h : d.partialMsg = none) : d.inboundCount = d.inbox.length := by
  simp [Drop.inboundCount, h]

/-- A segment with FIRST is refused at the inbox limit, in HOLD and with a cell or record wanting (R89). -/
theorem offerFirst_refuses {i : Slot} {s : State} (hp : (s.drop i).partialMsg = none) (last : Bool) (data : List Byte)
    (h : (s.drop i).inboxLimit.toNat ≤ (s.drop i).inbox.length ∨ s.store.hold = true ∨ s.store.freeCells = [] ∨
      s.store.freeRecords = []) :
    offerFirst i last data s = (false, s) := by
  unfold offerFirst
  split
  next c cs r rs hcells hrecords =>
    have hlimit : (s.drop i).inboxLimit.toNat ≤ (s.drop i).inboundCount ∨ s.store.hold = true := by
      rw [inboundCount_noPartial hp]
      simpa [hcells, hrecords] using h
    exact if_pos hlimit
  next => rfl

/-- A segment with FIRST that finds room is a new message of one cell (R89, R91). -/
theorem offerFirst_accepts {i : Slot} {s : State} {c r : Nat} {cs rs : List Nat} (hp : (s.drop i).partialMsg = none)
    (last : Bool) (data : List Byte) (hroom : (s.drop i).inbox.length < (s.drop i).inboxLimit.toNat)
    (hhold : s.store.hold = false) (hcells : s.store.freeCells = c :: cs) (hrecords : s.store.freeRecords = r :: rs) :
    ∃ t, offerFirst i last data s = (true, t) ∧ t.store.freeCells = cs ∧ t.store.freeRecords = rs ∧
      MessageStands i last
        { recNo := r
          id := none
          chain := [{ no := c, data := data.take (s.drop i).maxInbound.toNat }]
          status := if (s.drop i).maxInbound.toNat < data.length then .overlong else .intact
          alertMark := false
          fetched := false
          segCount := 1 } s t := by
  have hfree : ¬ ((s.drop i).inboxLimit.toNat ≤ (s.drop i).inboundCount ∨ s.store.hold = true) := by
    rw [inboundCount_noPartial hp]
    simp [hhold, hroom]
  have hover : (data.take (s.drop i).maxInbound.toNat).length < data.length ↔
      (s.drop i).maxInbound.toNat < data.length := by simp
  simp only [offerFirst, hcells, hrecords, if_neg hfree, hover]
  refine ⟨_, rfl, ?_, ?_, stands_takeAway i last _ 1 1 s _ (settle_stands i last _ (takeAway 1 1 s))⟩
  · simp [settle_store, hcells]
  · simp [settle_store, hrecords]

/-- A continuation that keeps bytes while no cell is free is refused (R90). -/
theorem offerContinuation_refuses {i : Slot} {s : State} {p : InMsg} (last : Bool) {data : List Byte}
    (hkept : keptBytes (s.drop i).maxInbound p.status p.length p.segCount.toNat data ≠ [])
    (hcells : s.store.freeCells = []) : offerContinuation i p last data s = (false, s) := by
  simp [offerContinuation, hkept, hcells]

/-- Any other continuation adds a cell for what it keeps, and counts as a segment (R90, R91). -/
theorem offerContinuation_accepts {i : Slot} {s : State} {p : InMsg} (last : Bool) {data kept : List Byte}
    (hkept : keptBytes (s.drop i).maxInbound p.status p.length p.segCount.toNat data = kept)
    (hcells : kept = [] ∨ s.store.freeCells ≠ []) :
    ∃ t, offerContinuation i p last data s = (true, t) ∧ t.store.freeRecords = s.store.freeRecords ∧
      t.store.freeCells = (if kept = [] then s.store.freeCells else s.store.freeCells.tail) ∧
      MessageStands i last { p with
        chain := p.chain ++
          (if kept = [] then [] else s.store.freeCells.head?.toList.map (fun c => { no := c, data := kept }))
        status := if kept.length < data.length then .overlong else p.status
        segCount := BitVec.ofNat 8 (min 255 (p.segCount.toNat + 1)) } s t := by
  by_cases hnil : kept = []
  · simp only [offerContinuation, hkept, hnil, List.isEmpty_nil, if_true, List.append_nil]
    refine ⟨_, rfl, ?_, ?_, settle_stands i last _ s⟩
    · rw [settle_store]
    · rw [settle_store]
  · have hcells := hcells.resolve_left hnil
    obtain ⟨c, cs, hfree⟩ := List.exists_cons_of_ne_nil hcells
    have hsome : kept.isEmpty = false := List.isEmpty_eq_false_iff.mpr hnil
    simp only [offerContinuation, hkept, hsome, hfree, if_neg hnil]
    refine ⟨_, rfl, ?_, ?_, stands_takeAway i last _ 1 0 s _ (settle_stands i last _ (takeAway 1 0 s))⟩
    · simp [settle_store]
    · simp [settle_store, hfree]

/-- Settles O56: a segment with FIRST is decided on the state its cut-off leaves, and a continuation by what it keeps of the
segment. -/
theorem offeredSegmentBuildsAMessage : Obligations.OfferedSegmentBuildsAMessage := by
  intro s i last data _ _ d
  refine ⟨fun hnone => ⟨fun hrefused => ?_, fun c cs r rs hroom hhold hcells hrecords => ?_, ?_⟩, fun p hp => ⟨?_, ?_⟩⟩
  · rw [offerSegment, if_pos rfl, cutOff_none hnone]
    exact offerFirst_refuses hnone last data hrefused
  · rw [offerSegment, if_pos rfl, cutOff_none hnone]
    exact offerFirst_accepts hnone last data hroom hhold hcells hrecords
  · refine ⟨_, ?_, rfl⟩
    simp only [offerSegment, hnone, ← satInc16_eq, State.modDrop, d]
    rfl
  · have hjoin : cutOff i s = joinInbox i { p with status := .incomplete } s := by
      simp only [cutOff, show (s.drop i).partialMsg = some p from hp]
    refine ⟨cutOff i s, hjoin ▸ joinInbox_stands i _ s, cutOff_store i s, ?_⟩
    rw [offerSegment, offerSegment, if_pos rfl, if_pos rfl, cutOff_none (cutOff_partial i s)]
  · have hoffer : offerSegment i false last data s = offerContinuation i p last data s := by
      simp only [offerSegment, show (s.drop i).partialMsg = some p from hp]
      rfl
    rw [hoffer]
    exact ⟨fun hkept hcells => offerContinuation_refuses last hkept hcells, fun h => offerContinuation_accepts last rfl h⟩

end Sys2Proof.Machine
end

section
/-!
The end of a visit by a valid reply (R7, R17, R126 to R133).
-/

namespace Sys2Proof.Machine

/-! ## The bytes of a reply (R7, Tables 11 and 72) -/

/-- The code of a reply kind (Table 11). -/
def DropKind.code : DropKind → Nat
  | .data => 8
  | .empty => 9
  | .busy => 10
  | .resyncAck => 11
  | .resyncReq => 12

/-- The CTRL byte of a reply, with its spare bit as given (Table 72). -/
def DropFrame.ctrl (f : DropFrame) (spare : Bool) : Byte :=
  BitVec.ofNat 8 (16 * f.kind.code + (if f.seq then 8 else 0) + (if f.next then 4 else 0) + (if f.more then 2 else 0) +
    (if spare then 1 else 0))

/-- The bytes of a reply that its CRC covers. -/
def DropFrame.body (f : DropFrame) (address : Byte) (spare : Bool) : List Byte :=
  address :: f.ctrl spare :: segfByte f.first f.last f.payload.length :: f.payload

/-- The length and the flags of a reply agree with its kind (R17). -/
def DropFrame.Segmented (f : DropFrame) : Prop :=
  (f.kind = .data → 1 ≤ f.payload.length ∧ f.payload.length ≤ 32) ∧
    (f.kind ≠ .data → f.first = false ∧ f.last = false ∧ f.payload = [])

theorem DropFrame.ctrl_reads (f : DropFrame) (spare : Bool) :
    dropKindOf (f.ctrl spare) = some f.kind ∧ ctrlSeq (f.ctrl spare) = f.seq ∧ ctrlNext (f.ctrl spare) = f.next ∧
      ctrlThird (f.ctrl spare) = f.more := by
  obtain ⟨kind, seq, next, more, first, last, payload⟩ := f
  have hbits : ∀ seq next more spare : Bool,
      let w : Byte := BitVec.ofNat 8 (16 * kind.code + (if seq then 8 else 0) + (if next then 4 else 0) +
        (if more then 2 else 0) + (if spare then 1 else 0))
      dropKindOf w = some kind ∧ ctrlSeq w = seq ∧ ctrlNext w = next ∧ ctrlThird w = more := by
    cases kind <;> decide
  exact hbits seq next more spare

theorem segfByte_reads (first last : Bool) {n : Nat} (h : n ≤ 32) :
    segfFirst (segfByte first last n) = first ∧ segfLast (segfByte first last n) = last ∧
      segfLen (segfByte first last n) = n := by
  have hbits : ∀ (m : Fin 33) (first last : Bool), segfFirst (segfByte first last m) = first ∧
      segfLast (segfByte first last m) = last ∧ segfLen (segfByte first last m) = m := by decide
  exact hbits ⟨n, Nat.lt_succ_of_le h⟩ first last

theorem DropFrame.Segmented.length_le {f : DropFrame} (h : f.Segmented) : f.payload.length ≤ 32 := by
  by_cases hk : f.kind = .data
  · exact (h.1 hk).2
  · simp [(h.2 hk).2.2]

theorem DropFrame.Segmented.segfGood {f : DropFrame} (h : f.Segmented) :
    segfGood f.kind (segfByte f.first f.last f.payload.length) = true := by
  obtain ⟨hfirst, hlast, hlen⟩ := segfByte_reads f.first f.last h.length_le
  by_cases hk : f.kind = .data
  · simp [hk, Machine.segfGood, hlen, h.1 hk]
  · obtain ⟨hf, hl, hp⟩ := h.2 hk
    have hshort : (!segfFirst (segfByte f.first f.last f.payload.length) &&
        !segfLast (segfByte f.first f.last f.payload.length) &&
        decide (segfLen (segfByte f.first f.last f.payload.length) = 0)) = true := by
      rw [hfirst, hlast, hlen, hf, hl, hp]; rfl
    cases hkind : f.kind
    case data => exact absurd hkind hk
    all_goals exact hshort

/-! ## The verdict with the last byte (R17) -/

/-- The bytes `got` have no verdict, and with `b` they are the valid reply `f` to a visit. -/
structure ClosesReply (v : Visit) (f : DropFrame) (got : List Byte) (b : Byte) : Prop where
  started : got ≠ []
  noVerdict : ∀ n ≤ got.length, judgeReply v.kind v.address (got.take n) = .incomplete
  verdict : judgeReply v.kind v.address (got ++ [b]) = .valid f

/-- A reply of an allowed kind is closed by the second byte of its CRC. -/
theorem DropFrame.Segmented.closesReply {v : Visit} {f : DropFrame} (h : f.Segmented) (hallows : v.kind.allows f.kind = true)
    (spare : Bool) :
    let body := f.body v.address spare
    ClosesReply v f (body ++ [hiByte (crc16 body)]) (loByte (crc16 body)) := by
  intro body
  obtain ⟨hkind, hseq, hnext, hmore⟩ := f.ctrl_reads spare
  obtain ⟨hfirst, hlast, hlen⟩ := segfByte_reads f.first f.last h.length_le
  refine ⟨by simp, fun n hn => ?_, ?_⟩
  · have hprefix := judgeReply_prefix v.kind v.address _ _ f.kind f.payload hkind hallows h.segfGood hlen n _
      (hiByte (crc16 body)) (loByte (crc16 body)) rfl (by simp [body, DropFrame.body] at hn ⊢; omega)
    have htake : ((body ++ [hiByte (crc16 body)]) ++ [loByte (crc16 body)]).take n = (body ++ [hiByte (crc16 body)]).take n :=
      List.take_append_of_le_length hn
    rw [← htake, List.append_assoc]
    exact hprefix
  · have hwhole := judgeReply_whole v.kind v.address _ _ f.kind f.payload hkind hallows h.segfGood hlen
    rw [hseq, hnext, hmore, hfirst, hlast] at hwhole
    rw [List.append_assoc]
    exact hwhole

/-- The state in which a reply lacks its last byte. -/
def State.begun (s : State) (l : Line) (got : List Byte) : State :=
  s.setLc l { s.lc l with receiver := .receiving got }

@[simp] theorem begun_drop (s : State) (l : Line) (got : List Byte) (i : Slot) : (s.begun l got).drop i = s.drop i := by
  simp [State.begun]

theorem exec_replyFrame {s : State} (hreset : s.hli.inReset = false) (l : Line) (chars : List FieldChar) :
    exec (.replyFrameReceived l chars) s = .next (startTx (replyFrame l chars s)) := by
  have hloud : loudEvent (replyFrame l chars) s = startTx (replyFrame l chars s) := by simp [loudEvent, hreset]
  rw [← hloud]; rfl

/-- A command by which a reply arrives whole, or its last byte after the others. -/
def BringsReply (s : State) (l : Line) (v : Visit) (got : List Byte) (b : Byte) (cmd : Instr) : Prop :=
  s.awaits l v ∧ cmd = .replyFrameReceived l ((got ++ [b]).map cleanChar) ∨
    s.receives l v got ∧ cmd = .fieldCharacterReceived l (cleanChar b)

/-- The last byte of a reply ends the visit. -/
theorem fieldChar_closes {s : State} {l : Line} {v : Visit} {f : DropFrame} {got : List Byte} {b : Byte}
    (h : ClosesReply v f got b) (hvisit : (s.lc l).visit = some v) (hphase : v.phase = .reply)
    (hlow : (s.lc l).rxLow = false) (hframe : (s.lc l).bcastFrame = none) :
    fieldChar l (cleanChar b) (s.begun l got) = endVisit l v (some f) (s.begun l got) := by
  have hchar := fieldChar_inReply l v (s.begun l got) got b (by simpa [State.begun] using hvisit) hphase
    (by simp [State.begun, Receiver.bytes]) (by simpa [State.begun] using hlow) (by simpa [State.begun] using hframe)
  rw [hchar, h.verdict]

/-- A reply ends the visit in the same way, in whichever form it arrives (R126). -/
theorem exec_closesReply {s : State} {l : Line} {v : Visit} {f : DropFrame} {got : List Byte} {b : Byte} {cmd : Instr}
    (h : ClosesReply v f got b) (hcmd : BringsReply s l v got b cmd) :
    exec cmd s = .next (startTx (endVisit l v (some f) (s.begun l got))) := by
  rcases hcmd with ⟨hawaits, rfl⟩ | ⟨hreceives, rfl⟩
  · obtain ⟨hreset, hvisit, hphase, -, hlow, hframe⟩ := id hawaits
    have hpos : 0 < got.length := List.length_pos_iff.mpr h.started
    have hgot : replyFrame l (got.map cleanChar) s = s.begun l got := by
      have hall := replyFrame_prefix l v s hawaits got h.noVerdict (got.length - 1) (by omega)
      rwa [Nat.sub_add_cancel hpos, List.take_length] at hall
    rw [exec_replyFrame hreset, List.map_append, replyFrame_append, hgot,
      ← fieldChar_closes h hvisit hphase hlow hframe]
    rfl
  · obtain ⟨hreset, hvisit, hphase, hreceiver, hlow, hframe⟩ := hreceives
    have hbegun : s.begun l got = s := by
      have hsame : { s.lc l with receiver := .receiving got } = s.lc l := by
        rw [Receiver.holding, if_neg h.started] at hreceiver
        rw [← hreceiver]
      rw [State.begun, hsame, setLc_self]
    have hclose := fieldChar_closes h hvisit hphase hlow hframe
    rw [hbegun] at hclose ⊢
    rw [exec_fieldCharacter hreset, hclose]

/-- A valid reply of a drop that lives is processed, and the visit closed (R127, R133). -/
theorem exec_reply_live {s : State} {l : Line} {v : Visit} {f : DropFrame} {got : List Byte} {b : Byte} {cmd : Instr}
    (h : ClosesReply v f got b) (hcmd : BringsReply s l v got b cmd) (hlive : (s.drop v.slot).state.live = true) :
    ∃ u t, ReplyProcessed l v f (s.begun l got) u ∧ VisitClosed l v (some f) u t ∧ exec cmd s = .next (startTx t) :=
  ⟨_, _, processReply_facts l v f _, endVisit_live l v (some f) _ (by simpa using hlive), exec_closesReply h hcmd⟩

/-- Of a valid reply of a RETIRING drop nothing is processed (R135). -/
theorem exec_reply_retiring {s : State} {l : Line} {v : Visit} {f : DropFrame} {got : List Byte} {b : Byte} {cmd : Instr}
    (h : ClosesReply v f got b) (hcmd : BringsReply s l v got b cmd) (hretiring : (s.drop v.slot).state = .retiring) :
    ∃ t, RetiringVisitClosed l v (s.begun l got) t ∧ exec cmd s = .next (startTx t) :=
  ⟨_, endVisit_retiring l v (some f) _ (by simpa using hretiring), exec_closesReply h hcmd⟩

/-! ## The end of a successful visit on a RUNNING line (R133) -/

/-- From the processed reply `u` to the end `t` of a successful visit to a drop of the line that has no pending move: the
drop is reported, the line free with its count 0, and nothing else of drops, store and lines is touched. -/
structure SuccessClosed (l : Line) (i : Slot) (ack : Bool) (u t : State) : Prop where
  drop : t.drop i = { u.drop i with
    missCount := 0
    state := if ack = true ∨ (u.drop i).state = .suspect then .online else (u.drop i).state
    link := { (u.drop i).link with inFlight := false } }
  others : SameDropsBut i u t
  visit : (t.lc l).visit = none
  receiver : (t.lc l).receiver = .notWaiting
  failCount : (t.lc l).failCount = 0
  running : (t.lc l).state = .running
  otherLine : t.lc l.other = u.lc l.other
  store : t.store = u.store
  retire : t.retire = u.retire
  joined : ack = true → (u.drop i).state = .lost → ∃ e ∈ (t.lc l).ring, e.slot = i
  kept : (u.drop i).state ≠ .lost → (t.lc l).ring = (u.lc l).ring ∧ (t.lc l).probeList = (u.lc l).probeList

@[simp] theorem landed_store (u : State) (l : Line) (i : Slot) : (u.landed l i).store = u.store := by
  rw [State.landed, setDrop_store]; split <;> simp

/-- A drop that is not LOST keeps its place on its line when it lands. -/
theorem landed_lc {u : State} {i : Slot} (h : (u.drop i).state ≠ .lost) (l : Line) : (u.landed l i).lc l = u.lc l := by
  simp [State.landed, h]

/-- The report of a success changes a line by the place of a LOST drop alone (R28). -/
theorem SuccessReported.line {i : Slot} {ack : Bool} {u t : State} (h : SuccessReported i ack u t) (m : Line) :
    (u.lc m).SameSupervision (t.lc m) ∧ (m ≠ (u.drop i).currentLine → t.lc m = u.lc m) ∧
      ((u.drop i).state ≠ .lost → t.lc m = u.lc m) ∧
      (ack = true → (u.drop i).state = .lost → m = (u.drop i).currentLine → ∃ e ∈ (t.lc m).ring, e.slot = i) := by
  obtain ⟨-, -, -, -, -, hlines, -⟩ := h
  rw [hlines m]
  by_cases hjoins : ack = true ∧ (u.drop i).state = .lost ∧ m = (u.drop i).currentLine
  · obtain ⟨-, hlost, hline⟩ := id hjoins
    rw [if_pos hjoins]
    exact ⟨⟨rfl, rfl, rfl⟩, fun hm => absurd hline hm, fun hs => absurd hlost hs,
      fun _ _ _ => ⟨_, List.mem_append_right _ (List.mem_singleton_self _), rfl⟩⟩
  · rw [if_neg hjoins]
    exact ⟨⟨rfl, rfl, rfl⟩, fun _ => rfl, fun _ => rfl, fun ha hs hm => absurd ⟨ha, hs, hm⟩ hjoins⟩

/-- Parts 2 to 6 of a successful visit on a RUNNING line whose fault threshold is not 0. -/
theorem VisitClosed.succeeded {l : Line} {v : Visit} {f : DropFrame} {u t : State} (h : VisitClosed l v (some f) u t)
    (hline : (u.drop v.slot).currentLine = l) (hmove : (u.drop v.slot).pendingMove = none)
    (hrun : (u.lc l).state = .running) (hthreshold : 1 ≤ (u.lc l).cfg.faultThreshold.toNat) :
    SuccessClosed l v.slot (f.kind == .resyncAck) u t := by
  obtain ⟨a, b, c, hreport, hsettled, hcheck, hfreed⟩ := h
  obtain ⟨hland, hothers, hsame, hother, hretire⟩ := landed_facts u l v.slot
  have hat := SuccessReported.line hreport
  obtain ⟨hdrop, hrest, -, hstore, hret, -, -⟩ := hreport
  rw [hland] at hdrop hat
  obtain ⟨⟨hstate, hcfg, -⟩, -, hkept, hjoined⟩ := hat l
  obtain ⟨-, hoff, -, -⟩ := hat l.other
  obtain ⟨hsstate, hscfg, -⟩ := hsame
  obtain rfl : b = a := hsettled.1 (by rw [hdrop]; exact hmove)
  obtain rfl : c = b.setLc l { b.lc l with failCount := 0 } := hcheck.1 (by rw [hcfg, hscfg]; exact hthreshold)
  have hrunning : (b.lc l).state = .running := hstate.trans (hsstate.trans hrun)
  obtain rfl := hfreed.1 (by simp [hrunning])
  exact {
    drop := by simpa using hdrop
    others := fun j hj => by simpa using (hrest j hj).trans (hothers j hj)
    visit := by simp
    receiver := by simp
    failCount := by simp
    running := by simpa using hrunning
    otherLine := by simpa using (hoff fun e => other_ne l (e.trans hline)).trans hother
    store := by simpa using hstore.trans (landed_store u l v.slot)
    retire := by simpa using hret.trans hretire
    joined := fun ha hs => by simpa using hjoined ha hs hline.symm
    kept := fun hs => by simp [hkept hs, landed_lc hs] }

/-- A line that a successful visit has left free and RUNNING, with its count 0 and nothing else than its drop changed. -/
def LeftRunning (l : Line) (i : Slot) (s t : State) : Prop :=
  (t.lc l).visit = none ∧ (t.lc l).receiver = .notWaiting ∧ (t.lc l).failCount = 0 ∧ (t.lc l).state = .running ∧
    SameDropsBut i s t ∧ t.lc l.other = s.lc l.other ∧ t.retire = s.retire

theorem SuccessClosed.leftRunning {l : Line} {i : Slot} {ack : Bool} {s u t : State} (h : SuccessClosed l i ack u t)
    (hothers : SameDropsBut i s u) (hother : u.lc l.other = s.lc l.other) (hretire : u.retire = s.retire) :
    LeftRunning l i s (startTx t) := by
  simp only [LeftRunning, SameDropsBut, startTx_lc, startTx_drop, startTx_retire]
  exact ⟨h.visit, h.receiver, h.failCount, h.running, fun j hj => (h.others j hj).trans (hothers j hj),
    h.otherLine.trans hother, h.retire.trans hretire⟩

/-! ## NEXT and the replies without data (R127 to R129, R131) -/

/-- NEXT changes the outbound side of its drop and the store, and no line (R128, R129). -/
theorem NextTaken.frame {i : Slot} {named : Option Delivered} {next : Bool} {u t : State} (h : NextTaken i named next u t) :
    SameDropsBut i u t ∧ t.retire = u.retire ∧ (∀ l, t.lc l = u.lc l) ∧
      t.drop i = { u.drop i with
        outbox := (t.drop i).outbox, headLock := (t.drop i).headLock, link := (t.drop i).link } := by
  obtain ⟨hkeeps, hflips⟩ := h
  by_cases hsame : next = (u.drop i).link.seqOut
  · rw [hkeeps hsame]
    exact ⟨fun _ _ => rfl, rfl, fun _ => rfl, rfl⟩
  obtain ⟨hplain, haccepted⟩ := hflips hsame
  by_cases hnamed : ∃ n m rest, named = some n ∧ (u.drop i).outbox = m :: rest ∧ (u.drop i).headLock = true ∧ m.id = n.id
  · obtain ⟨n, m, rest, hn, hout, hlock, hid⟩ := hnamed
    obtain ⟨hadvance, hfree⟩ := haccepted n m rest hn hout hlock hid
    by_cases hlast : n.seg + 1 = m.chain.length
    · obtain ⟨hdrop, hothers, -, hretire, hlines, -⟩ := hfree hlast
      exact ⟨hothers, hretire, hlines, by rw [hdrop]⟩
    · rw [hadvance hlast]
      exact ⟨fun j hj => setDrop_drop_ne (Ne.symm hj) .., by simp, by simp, by simp⟩
  · have hnone : ∀ n m rest, named = some n → (u.drop i).outbox = m :: rest →
        (u.drop i).headLock = false ∨ m.id ≠ n.id := by
      intro n m rest hn hout
      by_contra hboth
      obtain ⟨hlock, hid⟩ := not_or.mp hboth
      exact hnamed ⟨n, m, rest, hn, hout, Bool.not_eq_false _ ▸ hlock, not_not.mp hid⟩
    rw [hplain hnone]
    exact ⟨fun j hj => setDrop_drop_ne (Ne.symm hj) .., by simp, by simp, by simp⟩

/-- A RESYNC_ACK with all its flags clear. -/
def ackFrame : DropFrame :=
  { kind := .resyncAck, seq := false, next := false, more := false, first := false, last := false, payload := [] }

/-- An EMPTY with no flag but its NEXT. -/
def emptyFrame (next : Bool) : DropFrame :=
  { kind := .empty, seq := false, next := next, more := false, first := false, last := false, payload := [] }

theorem segmented_ack : ackFrame.Segmented := ⟨(nomatch ·), fun _ => ⟨rfl, rfl, rfl⟩⟩

theorem segmented_empty (next : Bool) : (emptyFrame next).Segmented := ⟨(nomatch ·), fun _ => ⟨rfl, rfl, rfl⟩⟩

theorem body_ack (address : Byte) : ackFrame.body address false = [address, 0xB0#8, 0x00#8] := rfl

theorem body_empty (address : Byte) (next : Bool) :
    (emptyFrame next).body address false = [address, if next then 0x94#8 else 0x90#8, 0x00#8] := by
  cases next <;> rfl

/-- An EMPTY without MORE is its NEXT and the end of the settle wait (R127). -/
theorem ReplyProcessed.ofEmpty {l : Line} {v : Visit} {next : Bool} {u t : State}
    (h : ReplyProcessed l v (emptyFrame next) u t) :
    ∃ a, NextTaken v.slot v.delivered next u a ∧ t = a.setDrop v.slot { a.drop v.slot with settleWait := false } := by
  obtain ⟨a, b, hnext, hdata, hmore⟩ := h
  have hb : b = a.setDrop v.slot { a.drop v.slot with settleWait := false } := hdata
  have ht : t = b := hmore.2 fun henters => absurd henters.1 Bool.false_ne_true
  exact ⟨a, hnext, ht.trans hb⟩

/-! ## The statement -/

/-- The kinds that the statement allows for the frame sent are those of Table 12. -/
theorem allows_of_kinds {sent : MasterKind} {k : DropKind}
    (h : match sent with
      | .poll => k = .data ∨ k = .empty ∨ k = .resyncReq
      | .deliver => k = .data ∨ k = .empty ∨ k = .busy ∨ k = .resyncReq
      | .resync => k = .resyncAck) : sent.allows k = true := by
  cases sent
  case poll => rcases h with rfl | rfl | rfl <;> rfl
  case deliver => rcases h with rfl | rfl | rfl | rfl <;> rfl
  case resync => cases h; rfl

/-- A valid reply of an allowed kind, in either form: its last byte closes it, and the end-of-visit act does the rest. -/
theorem exec_validReply {s : State} {l : Line} {v : Visit} {f : DropFrame} {spare : Bool} {cmd : Instr}
    (hsegmented : f.Segmented) (hallows : v.kind.allows f.kind = true) :
    let body := f.body v.address spare
    let got := body ++ [hiByte (crc16 body)]
    BringsReply s l v got (loByte (crc16 body)) cmd →
    ((s.drop v.slot).state.live = true →
      ∃ u t, ReplyProcessed l v f (s.begun l got) u ∧ VisitClosed l v (some f) u t ∧ exec cmd s = .next (startTx t)) ∧
    ((s.drop v.slot).state = .retiring →
      ∃ t, RetiringVisitClosed l v (s.begun l got) t ∧ exec cmd s = .next (startTx t)) :=
  fun hcmd => ⟨exec_reply_live (hsegmented.closesReply hallows spare) hcmd,
    exec_reply_retiring (hsegmented.closesReply hallows spare) hcmd⟩

/-- An awaited RESYNC_ACK on a RUNNING line: the drop is ONLINE with a cleared link, and a LOST one is back in the ring. -/
theorem resyncAck_effect {s : State} {l : Line} {v : Visit} {got : List Byte} {u t : State}
    (hu : ReplyProcessed l v ackFrame (s.begun l got) u) (ht : VisitClosed l v (some ackFrame) u t)
    (hline : (s.drop v.slot).currentLine = l) (hmove : (s.drop v.slot).pendingMove = none)
    (hrun : (s.lc l).state = .running) (hthreshold : 1 ≤ (s.lc l).cfg.faultThreshold.toNat) :
    let d := s.drop v.slot
    let t := startTx t
    LeftRunning l v.slot s t ∧ t.store = s.store ∧
      t.drop v.slot = { d with
        state := .online, missCount := 0
        link := { d.link with resyncNeeded := false, seqOut := false, expectedIn := false, inFlight := false } } ∧
      (d.state = .lost → ∃ e ∈ (t.lc l).ring, e.slot = v.slot) ∧
      (d.state ≠ .lost → (t.lc l).ring = (s.lc l).ring ∧ (t.lc l).probeList = (s.lc l).probeList) := by
  obtain rfl : u = (s.begun l got).setDrop v.slot _ := hu
  have hclosed := ht.succeeded (by simpa using hline) (by simpa using hmove) (by simpa [State.begun] using hrun)
    (by simpa [State.begun] using hthreshold)
  refine ⟨hclosed.leftRunning (fun j hj => by simp [setDrop_drop_ne (Ne.symm hj)]) (by simp [State.begun])
    (by simp [State.begun]), ?_, ?_, fun hlost => ?_, fun hkept => ?_⟩
  · simpa [State.begun] using hclosed.store
  · simpa [ackFrame] using hclosed.drop
  · simpa using hclosed.joined rfl (by simpa using hlost)
  · simpa [State.begun] using hclosed.kept (by simpa using hkept)

/-- An awaited EMPTY on a RUNNING line: what its NEXT says of the outbox stands, and the drop is reported. -/
theorem empty_effect {s : State} {l : Line} {v : Visit} {got : List Byte} {next : Bool} {u t : State}
    (hu : ReplyProcessed l v (emptyFrame next) (s.begun l got) u) (ht : VisitClosed l v (some (emptyFrame next)) u t)
    (hline : (s.drop v.slot).currentLine = l) (hmove : (s.drop v.slot).pendingMove = none)
    (hrun : (s.lc l).state = .running) (hthreshold : 1 ≤ (s.lc l).cfg.faultThreshold.toNat) :
    ∃ a, NextTaken v.slot v.delivered next (s.begun l got) a ∧ LeftRunning l v.slot s (startTx t) ∧
      (startTx t).store = a.store ∧
      (startTx t).drop v.slot = { a.drop v.slot with
        missCount := 0, settleWait := false
        state := if (s.drop v.slot).state = .suspect then .online else (s.drop v.slot).state
        link := { (a.drop v.slot).link with inFlight := false } } := by
  obtain ⟨a, hnext, rfl⟩ := hu.ofEmpty
  obtain ⟨hothers, hretire, hlines, hdrop⟩ := hnext.frame
  rw [begun_drop] at hdrop
  have hstate : (a.drop v.slot).state = (s.drop v.slot).state := by rw [hdrop]
  have haline : (a.drop v.slot).currentLine = l := by rw [hdrop]; exact hline
  have hamove : (a.drop v.slot).pendingMove = none := by rw [hdrop]; exact hmove
  have hclosed := ht.succeeded (by simpa using haline) (by simpa using hamove) (by simpa [hlines, State.begun] using hrun)
    (by simpa [hlines, State.begun] using hthreshold)
  refine ⟨a, hnext, hclosed.leftRunning (fun j hj => ?_) (by simp [hlines, State.begun])
    (by simpa [State.begun] using hretire), ?_, ?_⟩
  · rw [setDrop_drop_ne (Ne.symm hj), hothers j hj, begun_drop]
  · simpa using hclosed.store
  · simpa [emptyFrame, hstate] using hclosed.drop

/-- Settles O55: whichever form brings the reply, its last byte closes it; the two replies named are then followed through
the processing and the end of the visit. -/
theorem validReplyEndsTheVisit : Obligations.ValidReplyEndsTheVisit := by
  refine ⟨?_, fun s l v next hawaits => ?_⟩
  · intro s l v f spare cmd bit kind ctrl segf body frame began hform hkinds hdata hother
    have hsegmented : f.Segmented := ⟨hdata, hother⟩
    have hctrl : ctrl = f.ctrl spare := by
      simp only [ctrl, kind, bit, DropFrame.ctrl]
      cases f.kind <;> rfl
    have hsegf : segf = segfByte f.first f.last f.payload.length := (segfByte_eq _ _ hsegmented.length_le).symm
    have hbody : body = f.body v.address spare := by simp only [body, hctrl, hsegf, DropFrame.body]
    have hframe : frame = (body ++ [hiByte (crc16 body)]) ++ [loByte (crc16 body)] := by simp [frame]
    have hgot : frame.dropLast = body ++ [hiByte (crc16 body)] := by rw [hframe, List.dropLast_concat]
    have hbegan : began = s.begun l (body ++ [hiByte (crc16 body)]) := by simp only [began, hgot, State.begun]
    have hcmd : BringsReply s l v (body ++ [hiByte (crc16 body)]) (loByte (crc16 body)) cmd := by
      rwa [hgot, hframe] at hform
    rw [hbegan]
    rw [hbody] at hcmd ⊢
    exact exec_validReply hsegmented (allows_of_kinds hkinds) hcmd
  · intro d frame ended hlive hline hmove hrun hthreshold
    refine ⟨fun hresync => ?_, fun hdeliver => ?_⟩
    · have hexec := (exec_validReply (s := s) (l := l) (spare := false) segmented_ack (v := v) (by rw [hresync]; rfl)
        (.inl ⟨hawaits, rfl⟩)).1 hlive
      obtain ⟨u, t, hu, ht, hexec⟩ := hexec
      rw [body_ack, List.append_assoc] at hexec
      exact ⟨startTx t, hexec, resyncAck_effect hu ht hline hmove hrun hthreshold⟩
    · have hexec := (exec_validReply (s := s) (l := l) (spare := false) (segmented_empty next) (v := v)
        (by rw [hdeliver]; rfl) (.inl ⟨hawaits, rfl⟩)).1 hlive
      obtain ⟨u, t, hu, ht, hexec⟩ := hexec
      rw [body_empty, List.append_assoc] at hexec
      obtain ⟨a, hnext, hended, hstore, hdrop⟩ := empty_effect hu ht hline hmove hrun hthreshold
      obtain ⟨hkeeps, hflips⟩ := hnext
      rw [begun_drop] at hkeeps hflips
      refine ⟨startTx t, hexec, hended, fun hsame => ?_, fun m rest seg hdiffers hout hlock hdelivered => ?_⟩
      · rw [hstore, hdrop, hkeeps hsame]
        exact ⟨by simp [State.begun], by simp [d]⟩
      · obtain ⟨hadvance, hfree⟩ := (hflips hdiffers).2 _ m rest hdelivered hout hlock rfl
        refine ⟨fun hmore => ?_, fun hlast => ?_⟩
        · rw [hstore, hdrop, hadvance hmore]
          exact ⟨by simp [State.begun], by simp [d]⟩
        · obtain ⟨hafter, -, -, -, -, hcells, hrecords, -⟩ := hfree hlast
          rw [hstore, hdrop, hafter, hcells, hrecords]
          exact ⟨by simp [State.begun], by simp [State.begun], by simp [d]⟩

end Sys2Proof.Machine
end
